-- ==== Sys2Proof/Word.lean ====
section
/-! DEFINITION. The word types of the block (rules R5 and R10 of spec/00_scope.md): every value is an
unsigned integer of a stated width, bit 0 the least significant, so every one of them is a bit vector. -/

namespace Sys2Proof

/-- One bus data word, one command word, one register read: 32 bits (rules R18, R54). -/
abbrev Word := BitVec 32

/-- A block (plaintext or ciphertext) or a round subkey: 8 bits (rule R5). -/
abbrev Byte := BitVec 8

/-- A master key, and an element of the keyspace 0 to 1023: 10 bits (rule R5). -/
abbrev Key := BitVec 10

/-- The match map: one bit for each key of the keyspace (rule R32). -/
abbrev MatchMap := BitVec 1024

end Sys2Proof
end

