-- ==== Sys2Proof/Config.lean ====
section
/-! DEFINITION. What an implementation of the block fixes (rules R6 to R9 and R44: NUM_LANES, MAX_PAIRS,
TABLES with its TABLESET number, BASE, F_CLK) as plain data, and the two free values (the spec's `draw()`
and its free choices). The parameters stand in a field of State that no step changes, so that a statement
about every state is a statement about every instantiation; the tables' entries and the defaults are in
Machine/Tables.lean. -/

namespace Sys2Proof

/-- TABLES (rules R8, R36): six lists of 1-based source positions and two 4×4 boxes of 2-bit values.
A box is the list of its rows, a row the list of its columns. -/
structure Tables where
  p10 : List Nat
  p8 : List Nat
  ip : List Nat
  ipInv : List Nat
  ep : List Nat
  p4 : List Nat
  sboxA : List (List (BitVec 2))
  sboxB : List (List (BitVec 2))
  deriving DecidableEq, Repr

/-- The implementation parameters. -/
structure Params where
  /-- NUM_LANES, 1 to 16 (rule R6). -/
  numLanes : Nat
  /-- MAX_PAIRS, 1 to 64 (rule R7). -/
  maxPairs : Nat
  /-- TABLES (rule R8). -/
  tables : Tables
  /-- CAPS.TABLESET, the number that identifies TABLES (rule R27). -/
  tableSet : BitVec 4
  /-- BASE, a multiple of 0x1000 (rule R44; OPEN). -/
  base : Nat
  /-- F_CLK in hertz (rule R9; OPEN), read by the host adapter only. The spec says a positive frequency and not
  that it is an integer: a whole number of hertz is the model's choice (DESIGN CHOICE, unsafe, log entry 16). -/
  fClk : Nat
  deriving DecidableEq, Repr

/-- `draw()` (rule R13): "a free input of the step. It returns any value of the stated width, under no
law." Every draw of the block has 32 bits (rules R25, R26, R29, R32, R92). It is applied to State's
counter `draws`, which each draw advances. A FREE VALUE: nothing in Lean can evaluate it (log entry 1). -/
opaque Config.draw : Nat → Word

/-- The free choice of a key by a lane that steps when the list of turns has run out (rule R91: "free
choice; the model quantifies over it"). A FREE VALUE, applied to the same counter (log entry 2). -/
opaque Config.freeChoice : Nat → Nat

end Sys2Proof
end

