-- ==== Sys2Proof/Syntax.lean ====
section
/-! DEFINITION. The command words as an abstract type: ONE inductive, one constructor for each row of
spec/opcode_table.json (rule R57). An operand that the block treats as bits has exactly the width of its
field (rule R56); the two operands that are counts (the rotation amount of ROTL5 and the worker count of
SEARCH) are natural numbers, and WellFormed bounds them. -/

namespace Sys2Proof

/-- A command (an "instruction" of this hardware, rule R2). -/
inductive Instr where
  /-- NOP (rule R70). -/
  | nop
  /-- ENC: encrypt `data` under `key` (rule R85). -/
  | enc (key : Key) (data : Byte)
  /-- DEC: decrypt `data` under `key` (rule R86). -/
  | dec (key : Key) (data : Byte)
  /-- KSCHED: derive the two round subkeys of `key` (rule R79). -/
  | ksched (key : Key)
  /-- ROUND: one Feistel round of `data` with the subkey `aux` (rule R81). -/
  | round (data aux : Byte)
  /-- PERM P10 (rule R75). -/
  | permP10 (val : BitVec 10)
  /-- PERM P8 (rule R75). -/
  | permP8 (val : BitVec 10)
  /-- PERM IP (rule R75). -/
  | permIp (val : BitVec 10)
  /-- PERM IP_INV (rule R75). -/
  | permIpInv (val : BitVec 10)
  /-- PERM EP (rule R75). -/
  | permEp (val : BitVec 10)
  /-- PERM P4 (rule R75). -/
  | permP4 (val : BitVec 10)
  /-- SBOX A (rule R77). -/
  | sboxA (val : BitVec 10)
  /-- SBOX B (rule R77). -/
  | sboxB (val : BitVec 10)
  /-- ROTL5: rotate the 5-bit `val` left by `amount` (rule R76); SEL holds `amount`. -/
  | rotl5 (val : BitVec 10) (amount : Nat)
  /-- PCLR: clear the known-pair table (rule R88). -/
  | pclr
  /-- PADD: append the known pair (`p`, `c`) (rule R89). -/
  | padd (p c : Byte)
  /-- SEARCH: start the scan with `workers` = worker_count; SEL holds `workers` − 1 (rules R56, R90). -/
  | search (workers : Nat)
  deriving DecidableEq, Repr

end Sys2Proof
end

