-- ==== Sys2Proof/WellFormed.lean ====
section
/-! DEFINITION. Which terms of Instr a command word can spell. Every operand that has a bit-vector type is
in range by its type; the two counts have the ranges of rule R61 (ROTL5: N in 0..15; SEARCH: worker_count
in 1..16). A PERM, SBOX or ROTL5 whose VAL is too wide for its operand IS well-formed (rule R58): it
fails with InvalidBlockLength when it is executed. -/

namespace Sys2Proof

/-- The rotation amount fits SEL (rules R56, R61). -/
def rotationAmountOk (amount : Nat) : Bool := decide (amount < 16)

/-- The worker count fits SEL as worker_count − 1 (rules R56, R61). -/
def workerCountOk (workers : Nat) : Bool := decide (1 ≤ workers) && decide (workers ≤ 16)

/-- The instruction is one that some command word spells. -/
def Instr.wellFormed : Instr → Bool
  | .nop => true
  | .enc _ _ => true
  | .dec _ _ => true
  | .ksched _ => true
  | .round _ _ => true
  | .permP10 _ => true
  | .permP8 _ => true
  | .permIp _ => true
  | .permIpInv _ => true
  | .permEp _ => true
  | .permP4 _ => true
  | .sboxA _ => true
  | .sboxB _ => true
  | .rotl5 _ amount => rotationAmountOk amount
  | .pclr => true
  | .padd _ _ => true
  | .search workers => workerCountOk workers

end Sys2Proof
end

