-- ==== Sys2Proof/Decode.lean ====
section
/-! DEFINITION. The command decoder (rules R54 to R60), total on every 32-bit word and rejecting by name;
the encoder, written from the same formats; and the (mask, match) rows of rule R57, which state the same
encoding a second time. -/

namespace Sys2Proof

/-- Why a word spells no command (rules R58, R59). Every one of the three makes the command fail with
IllegalCommand. -/
inductive DecodeReject where
  /-- OP = 0xB to 0xF. -/
  | reservedOpcode
  /-- PERM with SEL ≥ 6, or SBOX with SEL ≥ 2. -/
  | reservedSel
  /-- A non-zero reserved bit of the word's format. -/
  | reservedBits
  deriving DecidableEq, Repr

/-! ### Fields (rules R54 and R56) -/

/-- OP = w[31:28]. -/
def fieldOp (w : Word) : BitVec 4 := w.extractLsb' 28 4
/-- SEL = w[27:24]. -/
def fieldSel (w : Word) : BitVec 4 := w.extractLsb' 24 4
/-- KEY = w[25:16]. -/
def fieldKey (w : Word) : Key := w.extractLsb' 16 10
/-- AUX = w[15:8]. -/
def fieldAux (w : Word) : Byte := w.extractLsb' 8 8
/-- DATA = w[7:0]. -/
def fieldData (w : Word) : Byte := w.extractLsb' 0 8
/-- VAL = w[9:0]. -/
def fieldVal (w : Word) : BitVec 10 := w.extractLsb' 0 10

/-! ### Formats (rule R55): each reads its operands and requires its reserved bits to be 0 -/

/-- Format Z: [27:0] reserved. -/
def formatZ (w : Word) (i : Instr) : Except DecodeReject Instr :=
  if w.extractLsb' 0 28 = 0#28 then .ok i else .error .reservedBits

/-- Format K: [27:26] and [15:8] reserved, KEY and DATA. -/
def formatK (w : Word) (mk : Key → Byte → Instr) : Except DecodeReject Instr :=
  if w.extractLsb' 26 2 = 0#2 ∧ w.extractLsb' 8 8 = 0#8 then .ok (mk (fieldKey w) (fieldData w))
  else .error .reservedBits

/-- Format KS: [27:26] and [15:0] reserved, KEY. -/
def formatKS (w : Word) (mk : Key → Instr) : Except DecodeReject Instr :=
  if w.extractLsb' 26 2 = 0#2 ∧ w.extractLsb' 0 16 = 0#16 then .ok (mk (fieldKey w))
  else .error .reservedBits

/-- Format R: [27:16] reserved, DATA and AUX. -/
def formatR (w : Word) (mk : Byte → Byte → Instr) : Except DecodeReject Instr :=
  if w.extractLsb' 16 12 = 0#12 then .ok (mk (fieldData w) (fieldAux w)) else .error .reservedBits

/-- Format U: [23:10] reserved, VAL (SEL is read by the caller). -/
def formatU (w : Word) (mk : BitVec 10 → Instr) : Except DecodeReject Instr :=
  if w.extractLsb' 10 14 = 0#14 then .ok (mk (fieldVal w)) else .error .reservedBits

/-- Format S: [23:0] reserved (SEL is read by the caller). -/
def formatS (w : Word) (i : Instr) : Except DecodeReject Instr :=
  if w.extractLsb' 0 24 = 0#24 then .ok i else .error .reservedBits

/-- PERM's table selector (rule R57). -/
def decodePerm (w : Word) : Except DecodeReject Instr :=
  match (fieldSel w).toNat with
  | 0 => formatU w .permP10
  | 1 => formatU w .permP8
  | 2 => formatU w .permIp
  | 3 => formatU w .permIpInv
  | 4 => formatU w .permEp
  | 5 => formatU w .permP4
  | _ => .error .reservedSel

/-- SBOX's box selector (rule R57). -/
def decodeSbox (w : Word) : Except DecodeReject Instr :=
  match (fieldSel w).toNat with
  | 0 => formatU w .sboxA
  | 1 => formatU w .sboxB
  | _ => .error .reservedSel

/-- The decoder (rules R54, R57, R58): OP alone selects the format. -/
def decode (w : Word) : Except DecodeReject Instr :=
  match (fieldOp w).toNat with
  | 0x0 => formatZ w .nop
  | 0x1 => formatK w .enc
  | 0x2 => formatK w .dec
  | 0x3 => formatKS w .ksched
  | 0x4 => formatR w .round
  | 0x5 => decodePerm w
  | 0x6 => decodeSbox w
  | 0x7 => formatU w fun val => .rotl5 val (fieldSel w).toNat
  | 0x8 => formatZ w .pclr
  | 0x9 => formatR w .padd
  | 0xA => formatS w (.search ((fieldSel w).toNat + 1))
  | _ => .error .reservedOpcode

/-- The instruction the decoder reads from a word numbered as spec/opcode_table.json numbers it. A command
is one 32-bit bus word (rule R54) and has no byte order of its own (rule R40), so the table's numbering is
the word itself. -/
def decodeTableWord (nbits w : Nat) : Option Instr :=
  match decode (BitVec.ofNat 32 (w % 2 ^ nbits)) with
  | .ok i => some i
  | .error _ => none

/-! ### The encoder (rules R55 to R57) -/

/-- A field's value at its place in a word: `v` in bits [lo+width−1:lo], zeros elsewhere. -/
def place {n : Nat} (v : BitVec n) (lo : Nat) : Word := v.setWidth 32 <<< lo

/-- Format K's word. -/
def encodeK (op : BitVec 4) (key : Key) (data : Byte) : Word := place op 28 ||| place key 16 ||| place data 0

/-- Format R's word. -/
def encodeR (op : BitVec 4) (data aux : Byte) : Word := place op 28 ||| place aux 8 ||| place data 0

/-- Format U's word. -/
def encodeU (op sel : BitVec 4) (val : BitVec 10) : Word := place op 28 ||| place sel 24 ||| place val 0

/-- The command word of an instruction; `encode` of rule R63. Every reserved bit is 0. -/
def encode : Instr → Word
  | .nop => place 0x0#4 28
  | .enc key data => encodeK 0x1#4 key data
  | .dec key data => encodeK 0x2#4 key data
  | .ksched key => place 0x3#4 28 ||| place key 16
  | .round data aux => encodeR 0x4#4 data aux
  | .permP10 val => encodeU 0x5#4 0#4 val
  | .permP8 val => encodeU 0x5#4 1#4 val
  | .permIp val => encodeU 0x5#4 2#4 val
  | .permIpInv val => encodeU 0x5#4 3#4 val
  | .permEp val => encodeU 0x5#4 4#4 val
  | .permP4 val => encodeU 0x5#4 5#4 val
  | .sboxA val => encodeU 0x6#4 0#4 val
  | .sboxB val => encodeU 0x6#4 1#4 val
  | .rotl5 val amount => encodeU 0x7#4 (BitVec.ofNat 4 amount) val
  | .pclr => place 0x8#4 28
  | .padd p c => encodeR 0x9#4 p c
  | .search workers => place 0xA#4 28 ||| place (BitVec.ofNat 4 (workers - 1)) 24

/-! ### The (mask, match) table of rule R57 -/

/-- One row of the table: a word w spells this row's command if and only if `w & mask = value`. -/
structure OpcodeRow where
  mnemonic : String
  mask : Word
  value : Word
  deriving DecidableEq, Repr

/-- A word matches a row (rule R57). -/
def OpcodeRow.matchesWord (r : OpcodeRow) (w : Word) : Bool := w &&& r.mask == r.value

/-- The row of an instruction. -/
def opcodeRow : Instr → OpcodeRow
  | .nop => ⟨"NOP", 0xFFFFFFFF#32, 0x00000000#32⟩
  | .enc _ _ => ⟨"ENC", 0xFC00FF00#32, 0x10000000#32⟩
  | .dec _ _ => ⟨"DEC", 0xFC00FF00#32, 0x20000000#32⟩
  | .ksched _ => ⟨"KSCHED", 0xFC00FFFF#32, 0x30000000#32⟩
  | .round _ _ => ⟨"ROUND", 0xFFFF0000#32, 0x40000000#32⟩
  | .permP10 _ => ⟨"PERM.P10", 0xFFFFFC00#32, 0x50000000#32⟩
  | .permP8 _ => ⟨"PERM.P8", 0xFFFFFC00#32, 0x51000000#32⟩
  | .permIp _ => ⟨"PERM.IP", 0xFFFFFC00#32, 0x52000000#32⟩
  | .permIpInv _ => ⟨"PERM.IP_INV", 0xFFFFFC00#32, 0x53000000#32⟩
  | .permEp _ => ⟨"PERM.EP", 0xFFFFFC00#32, 0x54000000#32⟩
  | .permP4 _ => ⟨"PERM.P4", 0xFFFFFC00#32, 0x55000000#32⟩
  | .sboxA _ => ⟨"SBOX.A", 0xFFFFFC00#32, 0x60000000#32⟩
  | .sboxB _ => ⟨"SBOX.B", 0xFFFFFC00#32, 0x61000000#32⟩
  | .rotl5 _ _ => ⟨"ROTL5", 0xF0FFFC00#32, 0x70000000#32⟩
  | .pclr => ⟨"PCLR", 0xFFFFFFFF#32, 0x80000000#32⟩
  | .padd _ _ => ⟨"PADD", 0xFFFF0000#32, 0x90000000#32⟩
  | .search _ => ⟨"SEARCH", 0xF0FFFFFF#32, 0xA0000000#32⟩

/-- All 17 rows, in the table's order. -/
def opcodeRows : List OpcodeRow :=
  [.nop, .enc 0 0, .dec 0 0, .ksched 0, .round 0 0, .permP10 0, .permP8 0, .permIp 0, .permIpInv 0,
    .permEp 0, .permP4 0, .sboxA 0, .sboxB 0, .rotl5 0 0, .pclr, .padd 0 0, .search 1].map opcodeRow

end Sys2Proof
end

