-- ==== Sys2Proof/Machine/Tables.lean ====
section
/-! DEFINITION. The constraints on the parameters (rules R6, R7, R9, R36, R44), the two instantiations of
TABLES that the spec gives (rules R37 and R38, both marked there `[from general knowledge, not in
source]`), and the default parameters. -/

namespace Sys2Proof

/-- `T[j]`: entry j of a table, and j counts from 1 (rule R13). -/
def entry (T : List Nat) (j : Nat) : Nat := T.getD (j - 1) 0

/-- "a permutation of 1..n": each of 1..n appears exactly once (rule R36). -/
abbrev IsPermOf (n : Nat) (T : List Nat) : Prop := T.Perm (List.range' 1 n)

/-- A 4×4 box. Its entries are values 0..3 by their type (rule R36). -/
abbrev IsBox (S : List (List (BitVec 2))) : Prop := S.length = 4 ∧ ∀ row ∈ S, row.length = 4

/-- The table of shapes of rule R36. -/
abbrev Tables.Valid (t : Tables) : Prop :=
  IsPermOf 10 t.p10 ∧
  (t.p8.length = 8 ∧ t.p8.Nodup ∧ ∀ e ∈ t.p8, 1 ≤ e ∧ e ≤ 10) ∧
  IsPermOf 8 t.ip ∧
  (IsPermOf 8 t.ipInv ∧ ∀ j ∈ List.range' 1 8, entry t.ip (entry t.ipInv j) = j) ∧
  (t.ep.length = 8 ∧ ∀ e ∈ t.ep, 1 ≤ e ∧ e ≤ 4) ∧
  IsPermOf 4 t.p4 ∧
  IsBox t.sboxA ∧ IsBox t.sboxB

/-- Instantiation A, the default (TABLESET 0, rule R37). -/
def tablesA : Tables where
  p10 := [3, 5, 2, 7, 4, 10, 1, 9, 8, 6]
  p8 := [6, 3, 7, 4, 8, 5, 10, 9]
  ip := [2, 6, 3, 1, 4, 8, 5, 7]
  ipInv := [4, 1, 3, 5, 7, 2, 8, 6]
  ep := [4, 1, 2, 3, 2, 3, 4, 1]
  p4 := [2, 4, 3, 1]
  sboxA := [[1, 0, 3, 2], [3, 2, 1, 0], [0, 2, 1, 3], [3, 1, 0, 2]]
  sboxB := [[0, 1, 2, 3], [2, 3, 1, 0], [3, 0, 1, 2], [2, 1, 0, 3]]

/-- Instantiation B, the alternative (TABLESET 1, rule R38): only the boxes differ. -/
def tablesB : Tables :=
  { tablesA with
    sboxA := [[1, 0, 3, 2], [3, 2, 1, 0], [0, 2, 1, 3], [3, 1, 3, 2]]
    sboxB := [[0, 1, 2, 3], [2, 0, 1, 3], [3, 0, 1, 0], [2, 1, 0, 3]] }

/-- The parameters are ones the spec admits: the ranges of rules R6, R7, R9 (a positive F_CLK, here a whole number
of hertz, log entry 16) and R44, the shapes of rule R36, and TABLESET 0 and 1 naming exactly the two
instantiations (rule R27). -/
abbrev Params.Valid (p : Params) : Prop :=
  (1 ≤ p.numLanes ∧ p.numLanes ≤ 16) ∧
  (1 ≤ p.maxPairs ∧ p.maxPairs ≤ 64) ∧
  p.tables.Valid ∧
  ((p.tableSet = 0#4 ↔ p.tables = tablesA) ∧ (p.tableSet = 1#4 ↔ p.tables = tablesB)) ∧
  p.base % 0x1000 = 0 ∧
  0 < p.fClk

/-- The default parameters: NUM_LANES 4 (rule R6), MAX_PAIRS 16 (rule R7), instantiation A (rule R37).
BASE and F_CLK have no default in the spec: 0 and 1 here (DESIGN CHOICE, unsafe, log entry 3). -/
def defaultParams : Params where
  numLanes := 4
  maxPairs := 16
  tables := tablesA
  tableSet := 0#4
  base := 0
  fClk := 1

end Sys2Proof
end

