-- ==== Sys2Proof/Machine/State.lean ====
section
/-! DEFINITION. The state of the machine as plain data: the block's registers, internal arrays and hidden
search state (rules R18 to R33), the constant parameters, the host as an agent with a program and the bus
responses it has received (rules R15, R43, R63), the list of turns that resolves the interleaving (rule
R48), and the counter of draws. The views of the registers are in Machine/Ops.lean. -/

namespace Sys2Proof.Machine

/-- The error kinds of rule R103. Kinds 1 and 2 are raised by the host adapter only. -/
inductive ErrorKind where
  | invalidBitString
  | invalidKeyLength
  | invalidBlockLength
  | emptyPairSet
  | illegalCommand
  | pairTableFull
  deriving DecidableEq, Repr

/-- The block's own state, every piece of it that rule R39 lists. `irq` is no state (rule R34), RKEY, CAPS
and CMD hold none (rules R19, R27, R29). -/
structure Block where
  /-- STATUS[0] BUSY (rule R20). -/
  busy : Bool
  /-- STATUS[1] DONE (rule R20). -/
  done : Bool
  /-- STATUS[2] ERR (rule R20). -/
  err : Bool
  /-- STATUS[3] OVR (rule R20). -/
  ovr : Bool
  /-- STATUS[7:4] ERRCODE (rule R20). -/
  errCode : BitVec 4
  /-- CTRL[0] IE (rule R21). -/
  ie : Bool
  /-- DOUT[9:0] (rule R22). -/
  dout : BitVec 10
  /-- SUBKEYS[7:0] K1 (rule R23). -/
  k1 : Byte
  /-- SUBKEYS[15:8] K2 (rule R23). -/
  k2 : Byte
  /-- PAIRCNT[6:0] (rule R24). -/
  pairCnt : BitVec 7
  /-- PAIR_P[0..MAX_PAIRS−1] (rule R31). -/
  pairP : List Byte
  /-- PAIR_C[0..MAX_PAIRS−1] (rule R31). -/
  pairC : List Byte
  /-- MATCH[0..1023] (rule R32): MATCH[k] is bit k. -/
  matchMap : MatchMap
  /-- MATCHCNT[10:0] (rule R25). -/
  matchCnt : BitVec 11
  /-- ELAPSED (rule R26). -/
  elapsed : Word
  /-- RIDX[9:0] (rule R28). -/
  ridx : BitVec 10
  /-- SEARCH_PENDING (rule R33): the keys not yet checked, ascending and without repeats. -/
  pending : List Key
  /-- ACTIVE_LANES (rule R33). -/
  activeLanes : Nat
  deriving DecidableEq, Repr

/-- The registers of the window (rule R18). -/
inductive Reg where
  | cmd | status | ctrl | dout | subkeys | paircnt | matchcnt | elapsed | caps | ridx | rkey
  | pair (i : Fin 64)
  | matchmap (w : Fin 32)
  deriving DecidableEq, Repr

/-- The width of a bus access (rule R41): only `word` is admitted. -/
inductive AccessWidth where
  | byte | half | word | burst
  deriving DecidableEq, Repr

/-- One bus access by a master (rules R13, R41, R44); `addr` is a platform address. -/
inductive BusAccess where
  | read (addr : Nat) (width : AccessWidth)
  | write (addr : Nat) (width : AccessWidth) (data : Word)
  deriving DecidableEq, Repr

/-- What the block answers to an access. -/
inductive BusResponse where
  /-- The value of a read. -/
  | data (v : Word)
  /-- A write that was taken (or ignored, by a read-only register). -/
  | written
  /-- `raise BusError(addr)` (rule R46). -/
  | error (addr : Nat)
  /-- The address is outside the window: the access did not reach the block (rule R44). -/
  | notSelected
  deriving DecidableEq, Repr

/-- One line of a host program (rule R63), and the inner loop of the host operation `search` (rule R100). -/
inductive HostLine where
  /-- `cmd <assembly>`. -/
  | cmd (i : Instr)
  /-- `rd NAME -> v`. -/
  | rd (r : Reg)
  /-- `wr NAME, v`. -/
  | wr (r : Reg) (v : Word)
  /-- `wait BUSY=0`. -/
  | waitIdle
  /-- Any single access, admitted or not. -/
  | bus (a : BusAccess)
  /-- `RKEY read after wr RIDX, j : j = 0 .. n−1`, n being the value just read (rule R100). -/
  | readKeys
  deriving DecidableEq, Repr

/-- The host (rule R15): the lines it has still to perform, and its accesses with the responses they got,
the newest first. -/
structure HostState where
  prog : List HostLine
  trace : List (BusAccess × BusResponse)
  deriving DecidableEq, Repr

/-- A turn: which agent moves next (rules R15, R48). A turn of an agent that has no step enabled passes
without effect. -/
inductive Turn where
  /-- The host performs its next line. -/
  | host
  /-- Lane `lane` takes a key-check step; `choice` picks the pending key (rule R91). -/
  | lane (lane choice : Nat)
  /-- The join (rule R92). -/
  | join
  /-- Reset (rule R118). -/
  | reset
  deriving DecidableEq, Repr

/-- The whole state. -/
structure State where
  /-- The parameters: constants, changed by no step. -/
  cfg : Params
  /-- The block. -/
  block : Block
  /-- The host. -/
  host : HostState
  /-- The turns given from outside, the next one first: any list of them, hence any interleaving (the
  MODEL's own field, log entry 4). When it has run out, Machine/Turns.lean says who moves. -/
  turns : List Turn
  /-- How many draws have been made (the MODEL's own field, log entry 1). -/
  draws : Nat
  deriving DecidableEq, Repr

/-- Why a step can stop with a fault. -/
inductive Fault where
  /-- Raised by Machine/Turns.lean alone: BUSY = 1 with keys pending, no turn is given, and no lane may
  step because ACTIVE_LANES = 0 (93_implementation_defined.md U15: "Such a run would be `stuck` with
  BUSY = 1, and it is not a run of the model"). Safe: it happens only in states that break the invariant
  1 ≤ ACTIVE_LANES of rule R33, which no run reaches. No command raises it. -/
  | stuckBusy
  deriving DecidableEq, Repr

/-- Why a step can be refused. -/
inductive Refusal where
  /-- Raised by an arm of Machine/Dispatch.lean whose instruction has no meaning yet. Safe. No arm of
  this model raises it. -/
  | notModelled (mnemonic : String)
  deriving DecidableEq, Repr

/-- The block right after reset (rule R39): everything 0, SEARCH_PENDING empty, ACTIVE_LANES 1. The pair
arrays have MAX_PAIRS entries. -/
def Block.reset (p : Params) : Block where
  busy := false
  done := false
  err := false
  ovr := false
  errCode := 0
  ie := false
  dout := 0
  k1 := 0
  k2 := 0
  pairCnt := 0
  pairP := List.replicate p.maxPairs 0
  pairC := List.replicate p.maxPairs 0
  matchMap := 0#1024
  matchCnt := 0
  elapsed := 0
  ridx := 0
  pending := []
  activeLanes := 1

/-- The machine right after reset, with the default parameters: the block as rule R39 says, no host program
loaded, no turn given, no draw made (log entries 3 to 5). -/
def State.reset : State where
  cfg := defaultParams
  block := Block.reset defaultParams
  host := { prog := [], trace := [] }
  turns := []
  draws := 0

end Sys2Proof.Machine
end

