-- ==== Sys2Proof/Machine/Flags.lean ====
section
/-! DEFINITION. The STATUS flags (rules R20, R35): how each is set, how each is cleared, the STATUS word,
the error codes (R103), and the interrupt output (R110). -/

namespace Sys2Proof.Machine

/-- The code of an error kind (rule R103). -/
def ErrorKind.code : ErrorKind → BitVec 4
  | .invalidBitString => 1
  | .invalidKeyLength => 2
  | .invalidBlockLength => 3
  | .emptyPairSet => 4
  | .illegalCommand => 5
  | .pairTableFull => 6

/-- The error kind of a code; 0 and the reserved codes 7 to 15 name none (rule R103). -/
def ErrorKind.ofCode (c : BitVec 4) : Option ErrorKind :=
  match c.toNat with
  | 1 => some .invalidBitString
  | 2 => some .invalidKeyLength
  | 3 => some .invalidBlockLength
  | 4 => some .emptyPairSet
  | 5 => some .illegalCommand
  | 6 => some .pairTableFull
  | _ => none

/-- Acceptance clears DONE (rule R67). -/
def clearDone (b : Block) : Block := { b with done := false }

/-- `complete()`: DONE is set, ERR, ERRCODE and OVR are not touched (rule R69). -/
def complete (b : Block) : Block := { b with done := true }

/-- A command written while BUSY = 1 is dropped: OVR is set and nothing else changes (rules R66, R106). -/
def dropCommand (b : Block) : Block := { b with ovr := true }

/-- A host write of `w` to STATUS (rule R20): write-1-to-clear, and clearing ERR clears ERRCODE. This is
also how the host acknowledges a failure or a completion (rule R109). -/
def writeStatus (w : Word) (b : Block) : Block :=
  { b with
    done := b.done && !w.getLsbD 1
    err := b.err && !w.getLsbD 2
    errCode := if w.getLsbD 2 then 0 else b.errCode
    ovr := b.ovr && !w.getLsbD 3 }

/-- The STATUS word (rule R20): bits [31:8] read 0. -/
def statusWord (b : Block) : Word :=
  place b.errCode 4 ||| place (BitVec.ofBool b.ovr) 3 ||| place (BitVec.ofBool b.err) 2 |||
    place (BitVec.ofBool b.done) 1 ||| place (BitVec.ofBool b.busy) 0

/-- The interrupt output, a level (rule R110). -/
def irq (b : Block) : Bool := b.ie && b.done

end Sys2Proof.Machine
end

