-- ==== Sys2Proof/Machine/Datapath.lean ====
section
/-! DEFINITION. The pure functions of the block: bit positions, permutation, rotation, substitution
(rules R11, R12, R72 to R74), key schedule (R78), round (R80), cipher (R82, R83) and the candidate
predicate (R87). -/

namespace Sys2Proof.Machine

/-- `pos(v, W, i) = v[W − i]`: position i of a W-bit sequence, counted from 1 at the most significant bit
(rule R11). -/
def pos {w : Nat} (v : BitVec w) (i : Nat) : Bool := v.getLsbD (w - i)

/-- `permute(v, W, T)` (rule R72), L = `out` being the length of T: the concatenation of the positions of v
that T names, in T's order. -/
def permute {w : Nat} (v : BitVec w) (T : List Nat) (out : Nat) : BitVec out :=
  (BitVec.ofBoolListBE (T.map (pos v))).setWidth out

/-- `rotl(v, W, n)` for any integer n (rule R73). -/
def rotl {w : Nat} (v : BitVec w) (n : Int) : BitVec w :=
  let m := (n % (w : Int)).toNat
  if m = 0 then v else (v <<< m) ||| (v >>> (w - m))

/-- `sbox_lookup(S, h)` (rule R74). -/
def sboxLookup (S : List (List (BitVec 2))) (h : BitVec 4) : BitVec 2 :=
  let row := 2 * (pos h 1).toNat + (pos h 4).toNat
  let col := 2 * (pos h 2).toNat + (pos h 3).toNat
  (S.getD row []).getD col 0

/-- `a ++ b` (rule R12): the first sequence's bits come first and are the most significant; `out` is the sum
of the two widths. -/
def cat {m n : Nat} (x : BitVec m) (y : BitVec n) (out : Nat) : BitVec out := (x ++ y).setWidth out

/-- The first four positions of a block. -/
def leftHalf (v : Byte) : BitVec 4 := v.extractLsb' 4 4

/-- The last four positions of a block. -/
def rightHalf (v : Byte) : BitVec 4 := v.extractLsb' 0 4

/-- `swap_4(v) = right ++ left` (rule R12). -/
def swap4 (v : Byte) : Byte := cat (rightHalf v) (leftHalf v) 8

/-- `derive_subkeys(key)` = (K1, K2) (rule R78). -/
def deriveSubkeys (t : Tables) (key : Key) : Byte × Byte :=
  let p := permute key t.p10 10
  let l1 := rotl (p.extractLsb' 5 5) 1
  let r1 := rotl (p.extractLsb' 0 5) 1
  let l2 := rotl l1 2
  let r2 := rotl r1 2
  (permute (cat l1 r1 10) t.p8 8, permute (cat l2 r2 10) t.p8 8)

/-- F of rule R80: expansion, XOR with the subkey, the two boxes, the post-substitution permutation. -/
def roundF (t : Tables) (r : BitVec 4) (k : Byte) : BitVec 4 :=
  let x := permute r t.ep 8 ^^^ k
  let sa := sboxLookup t.sboxA (leftHalf x)
  let sb := sboxLookup t.sboxB (rightHalf x)
  permute (cat sa sb 4) t.p4 4

/-- `round(d, k)` (rule R80): new left ++ unchanged right. -/
def feistelRound (t : Tables) (d k : Byte) : Byte :=
  cat (roundF t (rightHalf d) k ^^^ leftHalf d) (rightHalf d) 8

/-- `encrypt(p, key)` (rule R82). -/
def encrypt (t : Tables) (p : Byte) (key : Key) : Byte :=
  let ks := deriveSubkeys t key
  let a := permute p t.ip 8
  let b := feistelRound t a ks.1
  let d := feistelRound t (swap4 b) ks.2
  permute d t.ipInv 8

/-- `decrypt(c, key)` (rule R83): the subkeys in reversed order. -/
def decrypt (t : Tables) (c : Byte) (key : Key) : Byte :=
  let ks := deriveSubkeys t key
  let a := permute c t.ip 8
  let b := feistelRound t a ks.2
  let d := feistelRound t (swap4 b) ks.1
  permute d t.ipInv 8

/-- `candidate(k)` over a pair table of `n` pairs (rule R87). -/
def candidateOver (t : Tables) (pairP pairC : List Byte) (n : Nat) (k : Key) : Bool :=
  (List.range n).all fun i => encrypt t (pairP.getD i 0) k == pairC.getD i 0

/-- `candidate(k)` over the block's pair table as it stands (rule R87). -/
def candidate (t : Tables) (b : Block) (k : Key) : Bool :=
  candidateOver t b.pairP b.pairC b.pairCnt.toNat k

/-- The keyspace in ascending order: the integers 0 to 1023 (rule R5). -/
def allKeys : List Key := (List.range 1024).map (BitVec.ofNat 10)

end Sys2Proof.Machine
end

