-- ==== Sys2Proof/Machine/Operands.lean ====
section
/-! DEFINITION. The operand forms: the operand-width check of PERM, SBOX and ROTL5 (rules R57, R58, and
check 2 of R68) and the number of lanes that SEARCH's worker count asks for (R90). The other operands
have exactly the width of their field (rule R56) and need no check. -/

namespace Sys2Proof.Machine

/-- `VAL >> in_width ≠ 0` raises InvalidBlockLength; otherwise the operand is `VAL[in_width−1:0]`. -/
def widthChecked (inWidth : Nat) (val : BitVec 10) : Except ErrorKind (BitVec inWidth) :=
  if val >>> inWidth = 0 then .ok (val.setWidth inWidth) else .error .invalidBlockLength

/-- in_width of each PERM table (rule R57). -/
def inWidthP10 : Nat := 10
/-- in_width of P8: it is applied to a 10-bit value (rule R57, 90_conflicts.md C2). -/
def inWidthP8 : Nat := 10
/-- in_width of IP. -/
def inWidthIp : Nat := 8
/-- in_width of IP_INV. -/
def inWidthIpInv : Nat := 8
/-- in_width of EP. -/
def inWidthEp : Nat := 4
/-- in_width of P4. -/
def inWidthP4 : Nat := 4
/-- in_width of SBOX. -/
def inWidthSbox : Nat := 4
/-- in_width of ROTL5. -/
def inWidthRotl5 : Nat := 5

/-- `min(SEL + 1, NUM_LANES)` with SEL + 1 = worker_count (rule R90). -/
def lanesFor (p : Params) (workers : Nat) : Nat := min workers p.numLanes

end Sys2Proof.Machine
end

