-- ==== Sys2Proof/Machine/Ops.lean ====
section
/-! DEFINITION. The named operations over the block: the result registers, the pair table, the match map,
the search engine's state; TAKING AN ERROR (`raiseCmdError`, this hardware's only exception, rules R104
and R108) with the host's acknowledgement of it beside it (`acknowledge`, R109); and the command cycle that
every command word passes through (`offer`, rules R66 to R69). -/

namespace Sys2Proof.Machine

/-! ### Result registers -/

/-- `x[DOUT] <- zext_10(v)` (rule R22). -/
def writeDout {w : Nat} (v : BitVec w) (b : Block) : Block := { b with dout := v.setWidth 10 }

/-- `x[SUBKEYS] <- zext_32(K2 ++ K1)` (rule R23). -/
def writeSubkeys (ks : Byte × Byte) (b : Block) : Block := { b with k1 := ks.1, k2 := ks.2 }

/-! ### The known-pair table (rules R24, R31) -/

/-- The table is full: PAIRCNT = MAX_PAIRS. -/
def pairTableFull (p : Params) (b : Block) : Bool := b.pairCnt.toNat == p.maxPairs

/-- The table is empty: PAIRCNT = 0. -/
def pairTableEmpty (b : Block) : Bool := b.pairCnt == 0

/-- PCLR's effect: PAIRCNT and every entry 0 (rule R88). -/
def clearPairs (p : Params) (b : Block) : Block :=
  { b with
    pairCnt := 0
    pairP := List.replicate p.maxPairs 0
    pairC := List.replicate p.maxPairs 0 }

/-- PADD's effect: entry PAIRCNT is (`pt`, `ct`) and PAIRCNT grows by one (rule R89). -/
def appendPair (pt ct : Byte) (b : Block) : Block :=
  { b with
    pairCnt := b.pairCnt + 1
    pairP := b.pairP.set b.pairCnt.toNat pt
    pairC := b.pairC.set b.pairCnt.toNat ct }

/-! ### The match map (rules R29, R32) -/

/-- `MATCH[k] <- v`. -/
def setMatch (m : MatchMap) (k : Key) (v : Bool) : MatchMap :=
  if v then m ||| (1#1024 <<< k.toNat) else m &&& ~~~(1#1024 <<< k.toNat)

/-- RESULT_LIST: the keys with MATCH[k] = 1, in ascending order (rule R29). -/
def resultList (m : MatchMap) : List Key := allKeys.filter fun k => m.getLsbD k.toNat

/-- `Σ MATCH[k]` (rule R92). -/
def matchCount (m : MatchMap) : Nat := (resultList m).length

/-- Word `i` of the match map: bit b is MATCH[32·i + b] (rule R32). -/
def matchMapWord (m : MatchMap) (i : Nat) : Word := m.extractLsb' (32 * i) 32

/-! ### The search engine (rules R90 to R92) -/

/-- SEARCH's acceptance: BUSY, MATCH cleared, every key pending, the lanes chosen (rule R90). -/
def startSearch (lanes : Nat) (b : Block) : Block :=
  { b with busy := true, matchMap := 0#1024, pending := allKeys, activeLanes := lanes }

/-- Lane `l` has its step enabled (rule R91). -/
def laneEnabled (l : Nat) (b : Block) : Bool :=
  b.busy && !b.pending.isEmpty && decide (l < b.activeLanes)

/-- The pending key that a free choice picks; every pending key is picked by some choice. -/
def pickPending (choice : Nat) (b : Block) : Option Key := b.pending[choice % b.pending.length]?

/-- The check of key `k`: it leaves SEARCH_PENDING and MATCH[k] says whether it is a candidate (rule R91). -/
def checkKey (t : Tables) (k : Key) (b : Block) : Block :=
  { b with
    pending := b.pending.erase k
    matchMap := setMatch b.matchMap k (candidate t b k) }

/-- A lane's key-check step with the given free choice (rule R91). -/
def laneStep (t : Tables) (choice : Nat) (b : Block) : Block :=
  match pickPending choice b with
  | some k => checkKey t k b
  | none => b

/-- The join is enabled (rule R92). -/
def joinEnabled (b : Block) : Bool := b.busy && b.pending.isEmpty

/-- The join, ELAPSED being given the drawn value (rule R92). -/
def joinStep (elapsed : Word) (b : Block) : Block :=
  { b with
    matchCnt := BitVec.ofNat 11 (matchCount b.matchMap)
    elapsed := elapsed
    busy := false
    done := true }

/-! ### Draws -/

/-- The next draw, and the state with the draw counted (rule R13). -/
def drawWord (s : State) : Word × State := (Config.draw s.draws, { s with draws := s.draws + 1 })

/-! ### Errors: the block's one exception -/

/-- `raise CmdError(code)` (rule R104): ERR, ERRCODE and DONE are written and nothing else changes. There
is no trap: no pc is saved and no mode changes (rule R108). -/
def raiseCmdError (e : ErrorKind) (b : Block) : Block :=
  { b with err := true, errCode := e.code, done := true }

/-- The host's acknowledgement, in place of a return from trap (rule R109): a write of 1 to STATUS bit 2
clears ERR and ERRCODE, a write of 1 to bit 1 clears DONE. -/
def acknowledge (b : Block) : Block := writeStatus 0x6#32 b

/-! ### The command cycle -/

/-- `accept` with the decoded command's execute step (rule R67): DONE is cleared, then the command runs;
if it raises, rule R104 applies to the block as it stood. -/
def accept (execute : Block → Except ErrorKind Block) (b : Block) : Block :=
  match execute (clearDone b) with
  | .ok b' => b'
  | .error e => raiseCmdError e (clearDone b)

/-- A command word written to CMD (rule R66): dropped while BUSY = 1, otherwise accepted. -/
def offer (execute : Block → Except ErrorKind Block) (s : State) : Host.Outcome State Fault Refusal :=
  .next { s with block := if s.block.busy then dropCommand s.block else accept execute s.block }

/-- A command other than SEARCH: after its execute step, `complete()` (rules R67, R69). -/
def offerCompleting (execute : Block → Except ErrorKind Block) (s : State) :
    Host.Outcome State Fault Refusal :=
  offer (fun b => (execute b).map complete) s

/-- PERM with one table (rule R75). -/
def permCommand (T : List Nat) (inWidth outWidth : Nat) (val : BitVec 10) (b : Block) :
    Except ErrorKind Block :=
  (widthChecked inWidth val).map fun v => writeDout (permute v T outWidth) b

/-- SBOX with one box (rule R77). -/
def sboxCommand (S : List (List (BitVec 2))) (val : BitVec 10) (b : Block) : Except ErrorKind Block :=
  (widthChecked inWidthSbox val).map fun v => writeDout (sboxLookup S v) b

end Sys2Proof.Machine
end

