-- ==== Sys2Proof/Machine/Cipher.lean ====
section
/-! DEFINITION. The commands of the key schedule, the round function and the block cipher: KSCHED, ROUND,
ENC and DEC (rules R79, R81, R85, R86). -/

namespace Sys2Proof.Machine

/-- KSCHED (rule R79): SUBKEYS only. -/
def execKsched (key : Key) (s : State) : Host.Outcome State Fault Refusal :=
  offerCompleting (fun b => .ok (writeSubkeys (deriveSubkeys s.cfg.tables key) b)) s

/-- ROUND (rule R81): DOUT only. -/
def execRound (data aux : Byte) (s : State) : Host.Outcome State Fault Refusal :=
  offerCompleting (fun b => .ok (writeDout (feistelRound s.cfg.tables data aux) b)) s

/-- ENC (rule R85): DOUT and SUBKEYS. -/
def execEnc (key : Key) (data : Byte) (s : State) : Host.Outcome State Fault Refusal :=
  offerCompleting
    (fun b => .ok (writeSubkeys (deriveSubkeys s.cfg.tables key)
      (writeDout (encrypt s.cfg.tables data key) b))) s

/-- DEC (rule R86): DOUT and SUBKEYS, K1 still in the low byte. -/
def execDec (key : Key) (data : Byte) (s : State) : Host.Outcome State Fault Refusal :=
  offerCompleting
    (fun b => .ok (writeSubkeys (deriveSubkeys s.cfg.tables key)
      (writeDout (decrypt s.cfg.tables data key) b))) s

end Sys2Proof.Machine
end

