-- ==== Sys2Proof/Machine/Control.lean ====
section
/-! DEFINITION. The control command NOP (rule R70), and a word that spells no command (check 1 of rule
R68). -/

namespace Sys2Proof.Machine

/-- NOP (rule R70): its execute step does nothing. -/
def execNop (s : State) : Host.Outcome State Fault Refusal := offerCompleting (fun b => .ok b) s

/-- A word that matches no row of rule R57: IllegalCommand (rules R58, R68), unless the block is busy and
drops it. -/
def execIllegal (s : State) : Host.Outcome State Fault Refusal :=
  offerCompleting (fun _ => .error .illegalCommand) s

end Sys2Proof.Machine
end

