-- ==== Sys2Proof/Machine/Primitives.lean ====
section
/-! DEFINITION. The diagnostic commands of bit_permutation_engine and substitution_box_sram: PERM, ROTL5
and SBOX (rules R75 to R77). -/

namespace Sys2Proof.Machine

/-- PERM P10 (rule R75). -/
def execPermP10 (val : BitVec 10) (s : State) : Host.Outcome State Fault Refusal :=
  offerCompleting (permCommand s.cfg.tables.p10 inWidthP10 10 val) s

/-- PERM P8 (rule R75). -/
def execPermP8 (val : BitVec 10) (s : State) : Host.Outcome State Fault Refusal :=
  offerCompleting (permCommand s.cfg.tables.p8 inWidthP8 8 val) s

/-- PERM IP (rule R75). -/
def execPermIp (val : BitVec 10) (s : State) : Host.Outcome State Fault Refusal :=
  offerCompleting (permCommand s.cfg.tables.ip inWidthIp 8 val) s

/-- PERM IP_INV (rule R75). -/
def execPermIpInv (val : BitVec 10) (s : State) : Host.Outcome State Fault Refusal :=
  offerCompleting (permCommand s.cfg.tables.ipInv inWidthIpInv 8 val) s

/-- PERM EP (rule R75). -/
def execPermEp (val : BitVec 10) (s : State) : Host.Outcome State Fault Refusal :=
  offerCompleting (permCommand s.cfg.tables.ep inWidthEp 8 val) s

/-- PERM P4 (rule R75). -/
def execPermP4 (val : BitVec 10) (s : State) : Host.Outcome State Fault Refusal :=
  offerCompleting (permCommand s.cfg.tables.p4 inWidthP4 4 val) s

/-- SBOX A (rule R77). -/
def execSboxA (val : BitVec 10) (s : State) : Host.Outcome State Fault Refusal :=
  offerCompleting (sboxCommand s.cfg.tables.sboxA val) s

/-- SBOX B (rule R77). -/
def execSboxB (val : BitVec 10) (s : State) : Host.Outcome State Fault Refusal :=
  offerCompleting (sboxCommand s.cfg.tables.sboxB val) s

/-- ROTL5 (rule R76). -/
def execRotl5 (val : BitVec 10) (amount : Nat) (s : State) : Host.Outcome State Fault Refusal :=
  offerCompleting
    (fun b => (widthChecked inWidthRotl5 val).map fun v => writeDout (rotl v (amount : Int)) b) s

end Sys2Proof.Machine
end

