-- ==== Sys2Proof/Machine/Search.lean ====
section
/-! DEFINITION. The commands of exhaustive_key_search_engine: PCLR, PADD and SEARCH's acceptance step (rules
R88 to R90). The lane steps and the join are in Machine/Turns.lean. -/

namespace Sys2Proof.Machine

/-- PCLR (rule R88). -/
def execPclr (s : State) : Host.Outcome State Fault Refusal :=
  offerCompleting (fun b => .ok (clearPairs s.cfg b)) s

/-- PADD (rule R89): PairTableFull if the table holds MAX_PAIRS pairs. -/
def execPadd (p c : Byte) (s : State) : Host.Outcome State Fault Refusal :=
  offerCompleting
    (fun b => if pairTableFull s.cfg b then .error .pairTableFull else .ok (appendPair p c b)) s

/-- SEARCH's acceptance (rule R90): EmptyPairSet on an empty table; otherwise BUSY is left at 1 and DONE at
0, and the join completes the command (rule R67). -/
def execSearch (workers : Nat) (s : State) : Host.Outcome State Fault Refusal :=
  offer
    (fun b => if pairTableEmpty b then .error .emptyPairSet
      else .ok (startSearch (lanesFor s.cfg workers) b)) s

end Sys2Proof.Machine
end

