-- ==== Sys2Proof/Machine/Dispatch.lean ====
section
/-! DEFINITION. One arm per constructor of Instr: what the write of that command's word to CMD does. -/

namespace Sys2Proof.Machine

def exec (i : Instr) (s : State) : Host.Outcome State Fault Refusal :=
  match i with
  | .nop => Sys2Proof.Machine.execNop s
  | .enc key data => Sys2Proof.Machine.execEnc key data s
  | .dec key data => Sys2Proof.Machine.execDec key data s
  | .ksched key => Sys2Proof.Machine.execKsched key s
  | .round data aux => Sys2Proof.Machine.execRound data aux s
  | .permP10 val => Sys2Proof.Machine.execPermP10 val s
  | .permP8 val => Sys2Proof.Machine.execPermP8 val s
  | .permIp val => Sys2Proof.Machine.execPermIp val s
  | .permIpInv val => Sys2Proof.Machine.execPermIpInv val s
  | .permEp val => Sys2Proof.Machine.execPermEp val s
  | .permP4 val => Sys2Proof.Machine.execPermP4 val s
  | .sboxA val => Sys2Proof.Machine.execSboxA val s
  | .sboxB val => Sys2Proof.Machine.execSboxB val s
  | .rotl5 val amount => Sys2Proof.Machine.execRotl5 val amount s
  | .pclr => Sys2Proof.Machine.execPclr s
  | .padd p c => Sys2Proof.Machine.execPadd p c s
  | .search workers => Sys2Proof.Machine.execSearch workers s

end Sys2Proof.Machine
end

