-- ==== Sys2Proof/Machine/Bus.lean ====
section
/-! DEFINITION. The register window as a bus device: which offsets are mapped (rules R18, R44, R45), which
accesses are admitted (R41, R42), what each register reads as (R19 to R32) and what a write of it does
(R43), and the answer to one access (R46). -/

namespace Sys2Proof.Machine

/-- The offset of a register in the window (rule R18). -/
def Reg.offset : Reg → Nat
  | .cmd => 0x000
  | .status => 0x004
  | .ctrl => 0x008
  | .dout => 0x00C
  | .subkeys => 0x010
  | .paircnt => 0x014
  | .matchcnt => 0x018
  | .elapsed => 0x01C
  | .caps => 0x020
  | .ridx => 0x024
  | .rkey => 0x028
  | .pair i => 0x100 + 4 * i.val
  | .matchmap w => 0x200 + 4 * w.val

/-- The register that word `n` of the window (offset 4·n) holds, if one is mapped there (rules R18, R45). -/
def regAtWord (n : Nat) : Option Reg :=
  match n with
  | 0 => some .cmd
  | 1 => some .status
  | 2 => some .ctrl
  | 3 => some .dout
  | 4 => some .subkeys
  | 5 => some .paircnt
  | 6 => some .matchcnt
  | 7 => some .elapsed
  | 8 => some .caps
  | 9 => some .ridx
  | 10 => some .rkey
  | n =>
    if 64 ≤ n ∧ n < 128 then some (.pair (Fin.ofNat 64 (n - 64)))
    else if 128 ≤ n ∧ n < 160 then some (.matchmap (Fin.ofNat 32 (n - 128)))
    else none

/-- The register at an offset; none for an offset that is not a multiple of 4 (rule R41) or is not mapped
(rule R45). -/
def regAt (offset : Nat) : Option Reg := if offset % 4 = 0 then regAtWord (offset / 4) else none

/-- The platform address of a register: BASE + its offset (rules R44, R63). -/
def regAddr (p : Params) (r : Reg) : Nat := p.base + r.offset

/-- CAPS (rule R27). -/
def capsWord (p : Params) : Word :=
  place p.tableSet 16 ||| place (BitVec.ofNat 8 p.maxPairs) 8 ||| place (BitVec.ofNat 8 p.numLanes) 0

/-- PAIR[i] (rule R30): C above P, and 0 from MAX_PAIRS on. -/
def pairWord (b : Block) (i : Nat) : Word := place (b.pairC.getD i 0) 8 ||| place (b.pairP.getD i 0) 0

/-- A search result is `draw()` while BUSY = 1 (rules R25, R26, R29, R32, R121). -/
def searchResult (v : Word) (s : State) : Word × State := if s.block.busy then drawWord s else (v, s)

/-- RKEY while BUSY = 0 (rule R29). With the invariant MATCHCNT = Σ MATCH[k] the list has an entry at
every index below MATCHCNT; in other states, which no run reaches, the value is a draw. -/
def readRkey (s : State) : Word × State :=
  if s.block.ridx.toNat < s.block.matchCnt.toNat then
    match (resultList s.block.matchMap)[s.block.ridx.toNat]? with
    | some k => (place 1#1 31 ||| place k 0, s)
    | none => drawWord s
  else (0#32, s)

/-- A read of a register: its value, and the state, in which only the count of draws can have changed
(rule R43). -/
def readReg (r : Reg) (s : State) : Word × State :=
  match r with
  | .cmd => (0#32, s)
  | .status => (statusWord s.block, s)
  | .ctrl => (place (BitVec.ofBool s.block.ie) 0, s)
  | .dout => (place s.block.dout 0, s)
  | .subkeys => (place s.block.k2 8 ||| place s.block.k1 0, s)
  | .paircnt => (place s.block.pairCnt 0, s)
  | .matchcnt => searchResult (place s.block.matchCnt 0) s
  | .elapsed => searchResult s.block.elapsed s
  | .caps => (capsWord s.cfg, s)
  | .ridx => (place s.block.ridx 0, s)
  | .rkey => if s.block.busy then drawWord s else readRkey s
  | .pair i => (pairWord s.block i.val, s)
  | .matchmap w => searchResult (matchMapWord s.block.matchMap w.val) s

/-- A write of the command word `w` to CMD (rules R66 to R68). -/
def writeCmd (w : Word) (s : State) : Host.Outcome State Fault Refusal :=
  match decode w with
  | .ok i => exec i s
  | .error _ => execIllegal s

/-- A write of a register (rules R20, R21, R28, R43): a write to a read-only register is ignored. -/
def writeReg (r : Reg) (w : Word) (s : State) : Host.Outcome State Fault Refusal :=
  match r with
  | .cmd => writeCmd w s
  | .status => .next { s with block := writeStatus w s.block }
  | .ctrl => .next { s with block := { s.block with ie := w.getLsbD 0 } }
  | .ridx => .next { s with block := { s.block with ridx := w.extractLsb' 0 10 } }
  | .dout => .next s
  | .subkeys => .next s
  | .paircnt => .next s
  | .matchcnt => .next s
  | .elapsed => .next s
  | .caps => .next s
  | .rkey => .next s
  | .pair _ => .next s
  | .matchmap _ => .next s

/-- The address of an access. -/
def BusAccess.addr : BusAccess → Nat
  | .read a _ => a
  | .write a _ _ => a

/-- The width of an access. -/
def BusAccess.width : BusAccess → AccessWidth
  | .read _ w => w
  | .write _ w _ => w

/-- The access reaches the block: `BASE ≤ a ≤ BASE + 0xFFF` (rule R44). -/
def inWindow (p : Params) (a : Nat) : Bool := decide (p.base ≤ a) && decide (a ≤ p.base + 0xFFF)

/-- The register that an access of the given width and address moves, if it is admitted (rules R41, R42,
R45); none means BusError. -/
def admitted (p : Params) (a : BusAccess) : Option Reg :=
  if a.width = .word then regAt (a.addr - p.base) else none

/-- The host receives a response. -/
def record (a : BusAccess) (r : BusResponse) (s : State) : State :=
  { s with host := { s.host with trace := (a, r) :: s.host.trace } }

/-- Something done to the next state; a fault or a refusal passes through. -/
def mapNext (f : State → State) :
    Host.Outcome State Fault Refusal → Host.Outcome State Fault Refusal
  | .next s => .next (f s)
  | .fault r => .fault r
  | .refused r => .refused r

/-- One bus access, all of whose effects happen in one step (rules R42, R48). -/
def performAccess (a : BusAccess) (s : State) : Host.Outcome State Fault Refusal :=
  if inWindow s.cfg a.addr then
    match admitted s.cfg a with
    | none => .next (record a (.error a.addr) s)
    | some r =>
      match a with
      | .read _ _ => .next (record a (.data (readReg r s).1) (readReg r s).2)
      | .write _ _ w => mapNext (record a .written) (writeReg r w s)
  else .next (record a .notSelected s)

end Sys2Proof.Machine
end

