-- ==== Sys2Proof/Machine/HostAgent.lean ====
section
/-! DEFINITION. The host as an agent: what one line of its program does (rule R63, and the inner loop of
rule R100). A line that accesses the bus makes exactly one access. -/

namespace Sys2Proof.Machine

/-- `MemRead(BASE + offset(NAME), 4)`. -/
def readAccess (p : Params) (r : Reg) : BusAccess := .read (regAddr p r) .word

/-- `MemWrite(BASE + offset(NAME), 4, v)`. -/
def writeAccess (p : Params) (r : Reg) (v : Word) : BusAccess := .write (regAddr p r) .word v

/-- The value of the newest response, if it is a read's. -/
def lastData (h : HostState) : Option Word :=
  match h.trace with
  | (_, .data v) :: _ => some v
  | _ => none

/-- The lines to come, with `ls` before them. -/
def pushLines (ls : List HostLine) (s : State) : State :=
  { s with host := { s.host with prog := ls ++ s.host.prog } }

/-- One turn of `wait BUSY=0` that has read STATUS: it ends when `s[0] = 0` and otherwise stays (rule R63). -/
def waitAgain (s : State) : State :=
  match lastData s.host with
  | some v => if v.getLsbD 0 then pushLines [.waitIdle] s else s
  | none => s

/-- The accesses of rule R100's inner loop for n candidates. -/
def readKeysLines (n : Nat) : List HostLine :=
  (List.range n).flatMap fun j => [.wr .ridx (BitVec.ofNat 32 j), .rd .rkey]

/-- The number just read, for rule R100's inner loop. -/
def lastCount (h : HostState) : Nat := ((lastData h).getD 0).toNat

/-- One line, taken off the program already. A `cmd` whose operand is out of its range "spells no command,
and the assembler emits nothing for it" (rule R61), and `readKeys` is the host's own control flow (rule
R17): neither makes an access. -/
def runLine (l : HostLine) (s : State) : Host.Outcome State Fault Refusal :=
  match l with
  | .cmd i => if i.wellFormed then performAccess (writeAccess s.cfg .cmd (encode i)) s else .next s
  | .rd r => performAccess (readAccess s.cfg r) s
  | .wr r v => performAccess (writeAccess s.cfg r v) s
  | .bus a => performAccess a s
  | .waitIdle => mapNext waitAgain (performAccess (readAccess s.cfg .status) s)
  | .readKeys => .next (pushLines (readKeysLines (lastCount s.host)) s)

/-- The host's turn: its next line; a host that has none makes no access. -/
def hostTurn (s : State) : Host.Outcome State Fault Refusal :=
  match s.host.prog with
  | [] => .next s
  | l :: ls => runLine l { s with host := { s.host with prog := ls } }

end Sys2Proof.Machine
end

