-- ==== Sys2Proof/Machine/Turns.lean ====
section
/-! DEFINITION. Who moves next and what the move is (rules R15, R48, R91, R92, R118): the turns that are
given, and, when none is given any more, the block's own steps before the host's, so that every search ends
(rule R94's fairness, log entry 4). -/

namespace Sys2Proof.Machine

/-- A lane's step, on the whole state (rule R91). -/
def laneMove (choice : Nat) (s : State) : State :=
  { s with block := laneStep s.cfg.tables choice s.block }

/-- The join, on the whole state: ELAPSED takes a draw (rule R92). -/
def joinMove (s : State) : State :=
  { s with block := joinStep (Config.draw s.draws) s.block, draws := s.draws + 1 }

/-- Reset, on the whole state: the block alone; CAPS and TABLES do not change (rules R118, R119). -/
def resetMove (s : State) : State := { s with block := Block.reset s.cfg }

/-- One given turn. A turn of an agent with no step enabled changes nothing: "Lanes with l ≥ ACTIVE_LANES
take no step" (rule R91), and the join is enabled only at the end (rule R92). -/
def takeTurn (t : Turn) (s : State) : Host.Outcome State Fault Refusal :=
  match t with
  | .host => hostTurn s
  | .lane l choice => .next (if laneEnabled l s.block then laneMove choice s else s)
  | .join => .next (if joinEnabled s.block then joinMove s else s)
  | .reset => .next (resetMove s)

/-- A step of the running search when no turn is given: the join if it is enabled, otherwise lane 0 with a
free choice of key ("While SEARCH_PENDING ≠ ∅, lane 0 is enabled", rule R94). -/
def searchMove (s : State) : Host.Outcome State Fault Refusal :=
  if joinEnabled s.block then .next (joinMove s)
  else if laneEnabled 0 s.block then
    .next { laneMove (Config.freeChoice s.draws) s with draws := s.draws + 1 }
  else .fault .stuckBusy

/-- One step of the whole machine. With no turn given, BUSY = 0 and no host line left, nothing moves and all
state is kept (rules R117, R125). -/
def nextMove (s : State) : Host.Outcome State Fault Refusal :=
  match s.turns with
  | t :: ts => takeTurn t { s with turns := ts }
  | [] => if s.block.busy then searchMove s else hostTurn s

/-- The state in which the host's next act, and the machine's next step, is the write of `w` to CMD. -/
def withCommand (w : Word) (s : State) : State :=
  { s with
    turns := .host :: s.turns
    host := { s.host with prog := .bus (writeAccess s.cfg .cmd w) :: s.host.prog } }

end Sys2Proof.Machine
end

