-- ==== Sys2Proof/Machine/Step.lean ====
section
/-! DEFINITION. The step, and how one command word comes to be run by the very next step. -/

namespace Sys2Proof.Machine

/-- One step of the machine (rule R48): see Machine/Turns.lean. -/
def step (s : State) : Host.Outcome State Fault Refusal := nextMove s

/-- The state `s` in which the very next step runs the command word `w`: this hardware fetches nothing
(rule R17), so the host's next access is the write of the word to CMD and the next turn is the host's
(log entry 5). -/
def State.withFetchWord (s : State) (nbits w : Nat) : State :=
  withCommand (BitVec.ofNat 32 (w % 2 ^ nbits)) s

end Sys2Proof.Machine
end

