-- ==== Sys2Proof/Machine/Adapter.lean ====
section
/-! DEFINITION. The host adapter (rules R96 to R102): bit strings, the three host operations as host
programs, and the reading of their results from the responses. A bit string is a list of characters, the
leftmost first. -/

namespace Sys2Proof.Machine

/-- A character of a bit string: '0' or '1'. -/
def isBinaryChar (c : Char) : Bool := c == '0' || c == '1'

/-- `parse(s, W, len_err)` (rule R96): the character check comes before the length check. -/
def parseBits (s : List Char) (w : Nat) (lenErr : ErrorKind) : Except ErrorKind (BitVec w) :=
  if s.all isBinaryChar then
    if s.length = w then .ok ((BitVec.ofBoolListBE (s.map (· == '1'))).setWidth w)
    else .error lenErr
  else .error .invalidBitString

/-- `render(v, W)` (rule R97). -/
def renderBits {w : Nat} (v : BitVec w) : List Char :=
  (List.range w).map fun j => if v.getLsbD (w - 1 - j) then '1' else '0'

/-- How a host operation begins: it fails before any bus access, is refused as outside the source's
contract (rule R100, 93_implementation_defined.md U4), or has a program to perform. -/
inductive HostOp where
  | fails (e : ErrorKind)
  | refused
  | performs (lines : List HostLine)
  deriving DecidableEq, Repr

/-- The program of rules R98 and R99: wait, one command, read DOUT. -/
def cipherLines (i : Instr) : List HostLine := [.waitIdle, .cmd i, .rd .dout]

/-- The host operation `encrypt` (rule R98): the block is checked before the key. -/
def hostEncrypt (plaintext key : List Char) : HostOp :=
  match parseBits plaintext 8 .invalidBlockLength with
  | .error e => .fails e
  | .ok p =>
    match parseBits key 10 .invalidKeyLength with
    | .error e => .fails e
    | .ok k => .performs (cipherLines (.enc k p))

/-- The host operation `decrypt` (rule R99). -/
def hostDecrypt (ciphertext key : List Char) : HostOp :=
  match parseBits ciphertext 8 .invalidBlockLength with
  | .error e => .fails e
  | .ok c =>
    match parseBits key 10 .invalidKeyLength with
    | .error e => .fails e
    | .ok k => .performs (cipherLines (.dec k c))

/-- `return render(d[7:0], 8)` (rule R98), d being the value just read. -/
def cipherResult (h : HostState) : Option (List Char) :=
  (lastData h).map fun d => renderBits (d.extractLsb' 0 8)

/-- The pairs cut into chunks of at most `n` consecutive ones (rule R100); `open_` is the chunk being
filled, in order. -/
def chunksFrom {α : Type} (n : Nat) (open_ : List α) : List α → List (List α)
  | [] => if open_.isEmpty then [] else [open_]
  | x :: xs =>
    if open_.length < n then chunksFrom n (open_ ++ [x]) xs
    else open_ :: chunksFrom n [x] xs

/-- The chunks of a list of pairs. -/
def pairChunks {α : Type} (n : Nat) (xs : List α) : List (List α) := chunksFrom n [] xs

/-- One round of rule R100's loop, for one chunk. -/
def chunkLines (workers : Nat) (chunk : List (Byte × Byte)) : List HostLine :=
  [.waitIdle, .wr .status 0x0000000E#32, .cmd .pclr] ++
    chunk.map (fun pc => .cmd (.padd pc.1 pc.2)) ++
    [.cmd (.search workers), .waitIdle, .rd .matchcnt, .readKeys, .rd .elapsed]

/-- The host operation `search` (rule R100): the empty-pairs check comes before the worker_count check, and
worker counts above 16 are clamped to 16. -/
def hostSearch (p : Params) (pairs : List (Byte × Byte)) (workers : Nat) : HostOp :=
  if pairs.isEmpty then .fails .emptyPairSet
  else if workers < 1 then .refused
  else .performs ((pairChunks p.maxPairs pairs).flatMap (chunkLines (min workers 16)))

/-- The variables of rule R100: result, the keys S of the chunk being read, elapsed_cycles. -/
structure SearchVars where
  result : List Key
  chunkKeys : List Key
  elapsedCycles : Nat
  deriving DecidableEq, Repr

/-- What one read means to rule R100's loop: MATCHCNT opens a chunk's keys, RKEY gives one of them, ELAPSED
closes the chunk. -/
def noteResponse (p : Params) (v : SearchVars) (entry : BusAccess × BusResponse) : SearchVars :=
  match entry with
  | (.read a .word, .data d) =>
    if a = regAddr p .matchcnt then { v with chunkKeys := [] }
    else if a = regAddr p .rkey then { v with chunkKeys := v.chunkKeys ++ [d.extractLsb' 0 10] }
    else if a = regAddr p .elapsed then
      { v with
        result := v.result.filter (v.chunkKeys.contains ·)
        elapsedCycles := v.elapsedCycles + d.toNat }
    else v
  | _ => v

/-- `keys` and `elapsed_seconds` of rule R100, from the accesses the operation made (oldest first). The keys
are in ascending order because `result` begins as the ascending keyspace and only loses elements. -/
def searchOutcome (p : Params) (accesses : List (BusAccess × BusResponse)) : List Key × Rat :=
  let v := accesses.foldl (noteResponse p) ⟨allKeys, [], 0⟩
  (v.result, mkRat v.elapsedCycles p.fClk)

/-- The accesses the host has made since its trace had `before` entries, oldest first. -/
def accessesSince (before : Nat) (h : HostState) : List (BusAccess × BusResponse) :=
  (h.trace.take (h.trace.length - before)).reverse

/-- The error kind that a STATUS word reports (rule R102): ERRCODE's, if it names one. -/
def statusError (w : Word) : Option ErrorKind := ErrorKind.ofCode (w.extractLsb' 4 4)

end Sys2Proof.Machine
end

