-- ==== Sys2Proof/Machine/Assembler.lean ====
section
/-! DEFINITION. The assembly syntax (rule R61) and the pseudo-instructions (rule R62), on one line of text as
a list of characters: `assembleLine` gives the commands the line expands to, or none for an assembly
error. -/

namespace Sys2Proof.Machine

/-- A blank. -/
def isBlank (c : Char) : Bool := c == ' ' || c == '\t'

/-- The text without blanks at either end. -/
def trimBlanks (cs : List Char) : List Char :=
  ((cs.dropWhile isBlank).reverse.dropWhile isBlank).reverse

/-- The text cut at every comma. -/
def splitCommas : List Char → List (List Char)
  | [] => [[]]
  | c :: cs =>
    if c == ',' then [] :: splitCommas cs
    else
      match splitCommas cs with
      | [] => [[c]]
      | piece :: rest => (c :: piece) :: rest

/-- The value of a digit below `base`. -/
def digitValue (base : Nat) (c : Char) : Option Nat :=
  let v :=
    if '0' ≤ c ∧ c ≤ '9' then c.toNat - '0'.toNat
    else if 'a' ≤ c ∧ c ≤ 'f' then c.toNat - 'a'.toNat + 10
    else if 'A' ≤ c ∧ c ≤ 'F' then c.toNat - 'A'.toNat + 10
    else base
  if v < base then some v else none

/-- One or more digits, the most significant first (rule R14). -/
def readDigits (base : Nat) (cs : List Char) : Option Nat :=
  if cs.isEmpty then none
  else cs.foldl (fun acc c => acc.bind fun n => (digitValue base c).map (n * base + ·)) (some 0)

/-- The double quote. -/
def quoteChar : Char := Char.ofNat 34

/-- A numeric operand (rule R61): decimal, `0x…`, `0b…`, or a quoted bit string of exactly `width` bits,
read by rule R96. -/
def readNumber (width : Nat) (cs : List Char) : Option Nat :=
  match cs with
  | '0' :: 'x' :: ds => readDigits 16 ds
  | '0' :: 'b' :: ds => readDigits 2 ds
  | c :: rest =>
    if c = quoteChar then
      if rest.getLast? = some quoteChar then
        match parseBits rest.dropLast width .invalidBlockLength with
        | .ok v => some v.toNat
        | .error _ => none
      else none
    else readDigits 10 cs
  | [] => none

/-- An operand that must lie in its range of `width` bits: "It is never truncated" (rule R61). -/
def readOperand (width : Nat) (cs : List Char) : Option (BitVec width) :=
  (readNumber width cs).bind fun n => if n < 2 ^ width then some (BitVec.ofNat width n) else none

/-- VAL: a number of the 10-bit field, or a quoted string of exactly the operand's width (log entry 10). -/
def readVal (inWidth : Nat) (cs : List Char) : Option (BitVec 10) :=
  (readNumber inWidth cs).bind fun n => if n < 1024 then some (BitVec.ofNat 10 n) else none

/-- A rotation amount, 0 to 15 (rule R61). -/
def readAmount (cs : List Char) : Option Nat :=
  (readNumber 4 cs).bind fun n => if n < 16 then some n else none

/-- A worker count, 1 to 16 (rule R61). -/
def readWorkers (cs : List Char) : Option Nat :=
  (readNumber 4 cs).bind fun n => if 1 ≤ n ∧ n ≤ 16 then some n else none

/-- `perm TABLE, VAL` (rules R57, R61). -/
def assemblePerm (table val : List Char) : Option Instr :=
  if table = "p10".toList then (readVal inWidthP10 val).map .permP10
  else if table = "p8".toList then (readVal inWidthP8 val).map .permP8
  else if table = "ip".toList then (readVal inWidthIp val).map .permIp
  else if table = "ipinv".toList then (readVal inWidthIpInv val).map .permIpInv
  else if table = "ep".toList then (readVal inWidthEp val).map .permEp
  else if table = "p4".toList then (readVal inWidthP4 val).map .permP4
  else none

/-- `sbox BOX, VAL`. -/
def assembleSbox (box val : List Char) : Option Instr :=
  if box = "a".toList then (readVal inWidthSbox val).map .sboxA
  else if box = "b".toList then (readVal inWidthSbox val).map .sboxB
  else none

/-- Two operands to a command. -/
def map2 {α β γ : Type} (f : α → β → γ) (a : Option α) (b : Option β) : Option γ :=
  a.bind fun x => b.map fun y => f x y

/-- A mnemonic with its operands (rule R61), or a pseudo-instruction (rule R62), to commands. -/
def assembleParts (m : List Char) (ops : List (List Char)) : Option (List Instr) :=
  match ops with
  | [] =>
    if m = "nop".toList then some [.nop]
    else if m = "pclr".toList then some [.pclr]
    else if m = "search".toList then some [.search 1]
    else none
  | [a] =>
    if m = "ksched".toList then (readOperand 10 a).map fun k => [.ksched k]
    else if m = "search".toList then (readWorkers a).map fun w => [.search w]
    else if m = "ip".toList then (assemblePerm "ip".toList a).map fun i => [i]
    else if m = "ipinv".toList then (assemblePerm "ipinv".toList a).map fun i => [i]
    else none
  | [a, b] =>
    if m = "enc".toList then map2 (fun k d => [Instr.enc k d]) (readOperand 10 a) (readOperand 8 b)
    else if m = "dec".toList then map2 (fun k d => [Instr.dec k d]) (readOperand 10 a) (readOperand 8 b)
    else if m = "round".toList then
      map2 (fun d k => [Instr.round d k]) (readOperand 8 a) (readOperand 8 b)
    else if m = "perm".toList then (assemblePerm a b).map fun i => [i]
    else if m = "sbox".toList then (assembleSbox a b).map fun i => [i]
    else if m = "rotl5".toList then
      map2 (fun v n => [Instr.rotl5 v n]) (readVal inWidthRotl5 a) (readAmount b)
    else if m = "padd".toList then
      map2 (fun p c => [Instr.padd p c]) (readOperand 8 a) (readOperand 8 b)
    else none
  | [a, b, c] =>
    if m = "crack".toList then
      (map2 (fun p c => (p, c)) (readOperand 8 a) (readOperand 8 b)).bind fun pc =>
        (readWorkers c).map fun w => [.pclr, .padd pc.1 pc.2, .search w]
    else none
  | _ => none

/-- One line of assembly. -/
def assembleLine (cs : List Char) : Option (List Instr) :=
  let line := trimBlanks cs
  let m := line.takeWhile fun c => !isBlank c
  let rest := trimBlanks (line.dropWhile fun c => !isBlank c)
  assembleParts m (if rest.isEmpty then [] else (splitCommas rest).map trimBlanks)

end Sys2Proof.Machine
end

