-- ==== Sys2Proof/Safety.lean ====
section
/-! DEFINITION. What claims are made about: the invariant of the state (the "Invariant" of rule R31 and the
ranges and laws of rules R20, R24, R25, R27, R33, R91, R93, R103), the end of a run (R125), and the two
hazards that a host program must keep clear of (R121, R122). -/

namespace Sys2Proof.Machine

/-- The ERRCODE values that the block writes: 0 and the codes that rule R103 lists as raised by the block. -/
def blockErrCode (c : BitVec 4) : Bool := c == 0 || c == 3 || c == 4 || c == 5 || c == 6

/-- The invariant of the block under the parameters `p`. -/
structure Block.Inv (p : Params) (b : Block) : Prop where
  /-- 0 ≤ PAIRCNT ≤ MAX_PAIRS (rule R24). -/
  pairCnt_le : b.pairCnt.toNat ≤ p.maxPairs
  /-- PAIR_P has MAX_PAIRS entries (rule R31). -/
  pairP_length : b.pairP.length = p.maxPairs
  /-- PAIR_C has MAX_PAIRS entries (rule R31). -/
  pairC_length : b.pairC.length = p.maxPairs
  /-- Entries at i ≥ PAIRCNT are 0 (rule R31). -/
  pairs_above_zero : ∀ i, b.pairCnt.toNat ≤ i → b.pairP.getD i 0 = 0 ∧ b.pairC.getD i 0 = 0
  /-- ERRCODE is 0 exactly when ERR is 0 (rule R20). -/
  errCode_zero_iff : b.errCode = 0 ↔ b.err = false
  /-- ERRCODE holds 0 or a code that the block raises (rule R103). -/
  errCode_known : blockErrCode b.errCode = true
  /-- 1 ≤ ACTIVE_LANES ≤ NUM_LANES (rule R33). -/
  lanes_range : 1 ≤ b.activeLanes ∧ b.activeLanes ≤ p.numLanes
  /-- SEARCH_PENDING is empty when BUSY = 0 (rule R33). -/
  idle_nothing_pending : b.busy = false → b.pending = []
  /-- SEARCH_PENDING is a set: ascending, no repeats (rule R33). -/
  pending_ascending : b.pending.Pairwise fun j k => j.toNat < k.toNat
  /-- While a search runs DONE = 0 (rules R67, R90). -/
  busy_not_done : b.busy = true → b.done = false
  /-- A running search has at least one pair (rule R90). -/
  busy_has_pair : b.busy = true → b.pairCnt ≠ 0
  /-- While a search runs, MATCH[k] is 0 for a pending key and says "candidate" for a checked one (rules
  R90, R91). -/
  busy_match : b.busy = true → ∀ k : Key,
    b.matchMap.getLsbD k.toNat = (!b.pending.contains k && candidateOver p.tables b.pairP b.pairC b.pairCnt.toNat k)
  /-- While BUSY = 0, MATCHCNT is the number of matching keys (rules R25, R92). -/
  idle_matchCnt : b.busy = false → b.matchCnt.toNat = matchCount b.matchMap
  /-- MATCHCNT ≤ 1024 (rule R25). -/
  matchCnt_le : b.matchCnt.toNat ≤ 1024

/-- The invariant of the machine. -/
structure State.Inv (s : State) : Prop where
  cfg : s.cfg.Valid
  block : s.block.Inv s.cfg

/-- The error that check 2 or check 3 of rule R68 finds in a decoded command, if any. -/
def commandError (i : Instr) (s : State) : Option ErrorKind :=
  let tooWide (inWidth : Nat) (val : BitVec 10) : Option ErrorKind :=
    if val >>> inWidth = 0 then none else some .invalidBlockLength
  match i with
  | .nop => none
  | .enc _ _ => none
  | .dec _ _ => none
  | .ksched _ => none
  | .round _ _ => none
  | .permP10 val => tooWide 10 val
  | .permP8 val => tooWide 10 val
  | .permIp val => tooWide 8 val
  | .permIpInv val => tooWide 8 val
  | .permEp val => tooWide 4 val
  | .permP4 val => tooWide 4 val
  | .sboxA val => tooWide 4 val
  | .sboxB val => tooWide 4 val
  | .rotl5 val _ => tooWide 5 val
  | .pclr => none
  | .padd _ _ => if s.block.pairCnt.toNat = s.cfg.maxPairs then some .pairTableFull else none
  | .search _ => if s.block.pairCnt = 0 then some .emptyPairSet else none

/-- The error of a command word (rule R68): the first check that fails decides. -/
def wordError (w : Word) (s : State) : Option ErrorKind :=
  match decode w with
  | .ok i => commandError i s
  | .error _ => some .illegalCommand

/-- The bits of a register that are named as fields (rule R18); the others are reserved. -/
def Reg.fieldMask : Reg → Word
  | .cmd => 0x00000000
  | .status => 0x000000FF
  | .ctrl => 0x00000001
  | .dout => 0x000003FF
  | .subkeys => 0x0000FFFF
  | .paircnt => 0x0000007F
  | .matchcnt => 0x000007FF
  | .elapsed => 0xFFFFFFFF
  | .caps => 0x000FFFFF
  | .ridx => 0x000003FF
  | .rkey => 0x800003FF
  | .pair _ => 0x0000FFFF
  | .matchmap _ => 0xFFFFFFFF

/-- The illegal words of rule R58, written with the fields and the reserved bits of rule R55. -/
def illegalWord (w : Word) : Prop :=
  let op := (w >>> 28).toNat
  let sel := (w >>> 24).toNat % 16
  (0xB ≤ op) ∨ (op = 0x5 ∧ 6 ≤ sel) ∨ (op = 0x6 ∧ 2 ≤ sel) ∨
  ((op = 0x0 ∨ op = 0x8) ∧ w &&& 0x0FFFFFFF ≠ 0) ∨
  ((op = 0x1 ∨ op = 0x2) ∧ w &&& 0x0C00FF00 ≠ 0) ∨
  (op = 0x3 ∧ w &&& 0x0C00FFFF ≠ 0) ∨
  ((op = 0x4 ∨ op = 0x9) ∧ w &&& 0x0FFF0000 ≠ 0) ∨
  ((op = 0x5 ∨ op = 0x6 ∨ op = 0x7) ∧ w &&& 0x00FFFC00 ≠ 0) ∨
  (op = 0xA ∧ w &&& 0x00FFFFFF ≠ 0)

/-- A run of a host program has ended (rule R125): the host has made its last access and BUSY = 0.
DESIGN CHOICE (log entry 17): "has performed its last access" is tested as "no line is left", so a program whose
last lines make no access (`readKeys` after a count of 0, a `cmd` that spells no command) ends only once the host
has taken those lines off; the block is the same at both places. -/
def State.runEnded (s : State) : Bool := s.host.prog.isEmpty && !s.block.busy

/-- No command has been dropped since OVR was last cleared: what a claim about a final state should also
state (rule R125). -/
def State.noneDropped (s : State) : Bool := !s.block.ovr

/-- The registers that read as a draw while BUSY = 1 (rule R121). -/
def Reg.isSearchResult : Reg → Bool
  | .matchcnt => true
  | .elapsed => true
  | .rkey => true
  | .matchmap _ => true
  | .cmd => false
  | .status => false
  | .ctrl => false
  | .dout => false
  | .subkeys => false
  | .paircnt => false
  | .caps => false
  | .ridx => false
  | .pair _ => false

/-- The busy hazard (rule R122): a command written now would be dropped. -/
def State.busyHazard (s : State) : Bool := s.block.busy

/-- The search-result hazard (rule R121): a read of `r` now gives a meaningless value. -/
def State.resultHazard (r : Reg) (s : State) : Bool := s.block.busy && r.isSearchResult

/-- No agent of the block has an enabled step (rule R125). -/
def State.quiescent (s : State) : Bool := !s.block.busy

end Sys2Proof.Machine
end

