-- ==== Sys2Proof/Certificates/Slice0/Obligations.lean ====
section
/-! DEFINITION. The statements for the provers. Each docstring names the rule of spec/ it formalises. A next
state is always written whole, `{ s with … }`, so that every statement of a result states its frame as well:
what is not named there is unchanged (all registers, the pair table, the match map, the hidden search state,
the parameters, the host and the turns to come). This hardware has no data memory (rule R47). -/

open Sys2Proof Sys2Proof.Machine

/-! ## Encoding -/

/-- Rule R63 ("`encode` is the inverse of rules R55 to R57"), one direction, for every instruction with every
operand the encoding admits. -/
def Obligations.DecodeOfEncode : Prop :=
  ∀ i : Instr, i.wellFormed = true → decode (encode i) = .ok i

/-- The other direction: what decodes is well-formed, and it encodes to the word it was read from. -/
def Obligations.EncodeOfDecode : Prop :=
  ∀ (w : Word) (i : Instr), decode w = .ok i → i.wellFormed = true ∧ encode i = w

/-- Rule R57: "A word w is well-formed if and only if (w & mask) = match for some row. At most one row can
match". The decoder, which reads the formats of rule R55, agrees with the (mask, match) table. -/
def Obligations.DecodeAgreesWithMaskMatchTable : Prop :=
  (∀ w : Word, (∃ i, decode w = .ok i) ↔ ∃ r ∈ opcodeRows, r.matchesWord w = true) ∧
  (∀ (w : Word) (i : Instr), decode w = .ok i → (opcodeRow i).matchesWord w = true) ∧
  (∀ (w : Word), ∀ r ∈ opcodeRows, ∀ r' ∈ opcodeRows,
    r.matchesWord w = true → r'.matchesWord w = true → r = r')

/-- The commands whose operand VAL is wider than in_width (rule R58). -/
def Sys2Proof.Machine.operandTooWide : Instr → Bool
  | .permIp val => decide (2 ^ 8 ≤ val.toNat)
  | .permIpInv val => decide (2 ^ 8 ≤ val.toNat)
  | .permEp val => decide (2 ^ 4 ≤ val.toNat)
  | .permP4 val => decide (2 ^ 4 ≤ val.toNat)
  | .sboxA val => decide (2 ^ 4 ≤ val.toNat)
  | .sboxB val => decide (2 ^ 4 ≤ val.toNat)
  | .rotl5 val _ => decide (2 ^ 5 ≤ val.toNat)
  | .nop => false
  | .enc _ _ => false
  | .dec _ _ => false
  | .ksched _ => false
  | .round _ _ => false
  | .permP10 _ => false
  | .permP8 _ => false
  | .pclr => false
  | .padd _ _ => false
  | .search _ => false

/-- Rule R58: the words that are illegal, what each of them does, and what a well-formed PERM, SBOX or ROTL5
with too wide a VAL does. -/
def Obligations.IllegalWordsAndWideOperandsFail : Prop :=
  (∀ w : Word, (∃ e, decode w = .error e) ↔ illegalWord w) ∧
  (∀ (w : Word) (s : State), s.block.busy = false → illegalWord w →
    writeCmd w s = .next { s with block := { s.block with err := true, errCode := 5, done := true } }) ∧
  (∀ (w : Word) (i : Instr) (s : State), s.block.busy = false → decode w = .ok i →
    operandTooWide i = true →
    writeCmd w s = .next { s with block := { s.block with err := true, errCode := 3, done := true } })

/-- Rule R64, row by row: the assembly text, the command, the word. -/
def Sys2Proof.Machine.exampleWords : List (List Char × Instr × Word) :=
  [("nop".toList, .nop, 0x00000000),
   ("enc 0x282, 0xAA".toList, .enc 0x282 0xAA, 0x128200AA),
   ("dec 0x282, 0x8D".toList, .dec 0x282 0x8D, 0x2282008D),
   ("ksched 0x282".toList, .ksched 0x282, 0x32820000),
   ("round 0xAA, 0xA4".toList, .round 0xAA 0xA4, 0x4000A4AA),
   ("perm p10, 0x282".toList, .permP10 0x282, 0x50000282)] ++
  [("perm ip, 0xAA".toList, .permIp 0xAA, 0x520000AA),
   ("sbox b, 0xF".toList, .sboxB 0xF, 0x6100000F),
   ("rotl5 0x16, 2".toList, .rotl5 0x16 2, 0x72000016),
   ("pclr".toList, .pclr, 0x80000000),
   ("padd 0xAA, 0x8D".toList, .padd 0xAA 0x8D, 0x90008DAA),
   ("search 4".toList, .search 4, 0xA3000000)]

/-- The examples of rule R64: the text assembles to the command, the command encodes to the word, and the word
decodes to the command. -/
def Obligations.ExampleWordsAreReadRight : Prop :=
  ∀ row ∈ exampleWords,
    assembleLine row.1 = some [row.2.1] ∧ encode row.2.1 = row.2.2 ∧ decode row.2.2 = .ok row.2.1

/-- Rules R61 and R62: "An operand outside its range is an assembly error: it spells no command … It is never
truncated". Every command that a line assembles to is one that a word spells; each reader of an operand gives a
value exactly when that value is the number that stands there and lies in its range, and nothing otherwise; a
quoted bit string has exactly the operand's width; and each form assembles exactly when all its operands do.
(That VAL takes every number of its 10-bit field is the model's choice, log entry 10.) -/
def Obligations.AssembledCommandsAreWellFormed : Prop :=
  (∀ (line : List Char) (is : List Instr), assembleLine line = some is →
    is ≠ [] ∧ ∀ i ∈ is, i.wellFormed = true ∧ decode (encode i) = .ok i) ∧
  (∀ (w : Nat) (cs : List Char),
    (∀ v : BitVec w, readOperand w cs = some v ↔ readNumber w cs = some v.toNat) ∧
    (∀ n, readNumber w cs = some n → 2 ^ w ≤ n → readOperand w cs = none) ∧
    (∀ v : BitVec 10, readVal w cs = some v ↔ readNumber w cs = some v.toNat) ∧
    (∀ n, readNumber w cs = some n → 1024 ≤ n → readVal w cs = none) ∧
    (∀ n, readNumber w (quoteChar :: (cs ++ [quoteChar])) = some n ↔
      ∃ v : BitVec w, parseBits cs w .invalidBlockLength = .ok v ∧ n = v.toNat)) ∧
  (∀ (cs : List Char) (n : Nat),
    (readAmount cs = some n ↔ readNumber 4 cs = some n ∧ n ≤ 15) ∧
    (readNumber 4 cs = some n → 15 < n → readAmount cs = none) ∧
    (readWorkers cs = some n ↔ readNumber 4 cs = some n ∧ 1 ≤ n ∧ n ≤ 16) ∧
    (readNumber 4 cs = some n → (n = 0 ∨ 16 < n) → readWorkers cs = none)) ∧
  (∀ (a b : List Char) (is : List Instr),
    (assembleParts "enc".toList [a, b] = some is ↔
      ∃ k d, readOperand 10 a = some k ∧ readOperand 8 b = some d ∧ is = [.enc k d]) ∧
    (assembleParts "dec".toList [a, b] = some is ↔
      ∃ k d, readOperand 10 a = some k ∧ readOperand 8 b = some d ∧ is = [.dec k d]) ∧
    (assembleParts "ksched".toList [a] = some is ↔ ∃ k, readOperand 10 a = some k ∧ is = [.ksched k]) ∧
    (assembleParts "round".toList [a, b] = some is ↔
      ∃ d k, readOperand 8 a = some d ∧ readOperand 8 b = some k ∧ is = [.round d k]) ∧
    (assembleParts "rotl5".toList [a, b] = some is ↔
      ∃ v n, readVal 5 a = some v ∧ readAmount b = some n ∧ is = [.rotl5 v n]) ∧
    (assembleParts "padd".toList [a, b] = some is ↔
      ∃ p c, readOperand 8 a = some p ∧ readOperand 8 b = some c ∧ is = [.padd p c]) ∧
    (assembleParts "search".toList [a] = some is ↔ ∃ n, readWorkers a = some n ∧ is = [.search n])) ∧
  (∀ (a : List Char) (is : List Instr),
    (assembleParts "perm".toList ["p10".toList, a] = some is ↔ ∃ v, readVal 10 a = some v ∧ is = [.permP10 v]) ∧
    (assembleParts "perm".toList ["p8".toList, a] = some is ↔ ∃ v, readVal 10 a = some v ∧ is = [.permP8 v]) ∧
    (assembleParts "perm".toList ["ip".toList, a] = some is ↔ ∃ v, readVal 8 a = some v ∧ is = [.permIp v]) ∧
    (assembleParts "perm".toList ["ipinv".toList, a] = some is ↔
      ∃ v, readVal 8 a = some v ∧ is = [.permIpInv v]) ∧
    (assembleParts "perm".toList ["ep".toList, a] = some is ↔ ∃ v, readVal 4 a = some v ∧ is = [.permEp v]) ∧
    (assembleParts "perm".toList ["p4".toList, a] = some is ↔ ∃ v, readVal 4 a = some v ∧ is = [.permP4 v]) ∧
    (assembleParts "sbox".toList ["a".toList, a] = some is ↔ ∃ v, readVal 4 a = some v ∧ is = [.sboxA v]) ∧
    (assembleParts "sbox".toList ["b".toList, a] = some is ↔ ∃ v, readVal 4 a = some v ∧ is = [.sboxB v])) ∧
  (∀ (a b c : List Char) (is : List Instr),
    assembleParts "crack".toList [a, b, c] = some is ↔
      ∃ p ct n, readOperand 8 a = some p ∧ readOperand 8 b = some ct ∧ readWorkers c = some n ∧
        is = [.pclr, .padd p ct, .search n])

/-! ## The step and the command cycle -/

/-- Rules R48, R52, R66 to R68: when the next turn is the host's and its next line writes the word `w` to CMD,
the step is `exec` of the decoded command (or the failure IllegalCommand) in the state with the turn and the
line taken off, and the host's trace then holds the access. -/
def Obligations.StepRunsTheWrittenCommand : Prop :=
  ∀ (s : State) (ts : List Turn) (ls : List HostLine) (w : Word),
    s.turns = .host :: ts → s.host.prog = .bus (writeAccess s.cfg .cmd w) :: ls →
    let s0 : State := { s with turns := ts, host := { s.host with prog := ls } }
    let taken := record (writeAccess s.cfg .cmd w) .written
    (∀ i, decode w = .ok i → step s = mapNext taken (exec i s0)) ∧
    (∀ e, decode w = .error e → step s = mapNext taken (execIllegal s0))

/-- Rule R63: a line `cmd <assembly>` of the host's program runs its command; the write that `withFetchWord`
sets up runs the word's command in the state it was given. -/
def Obligations.StepRunsTheHostsCommandLine : Prop :=
  (∀ (s : State) (ts : List Turn) (ls : List HostLine) (i : Instr), i.wellFormed = true →
    s.turns = .host :: ts → s.host.prog = .cmd i :: ls →
    step s = mapNext (record (writeAccess s.cfg .cmd (encode i)) .written)
      (exec i { s with turns := ts, host := { s.host with prog := ls } })) ∧
  (∀ (s : State) (i : Instr), i.wellFormed = true →
    step (s.withFetchWord 32 (encode i).toNat) =
      mapNext (record (writeAccess s.cfg .cmd (encode i)) .written) (exec i s))

/-- Rule R106: a dropped command, legal or not, changes OVR alone. -/
def Obligations.CommandWhileBusyIsDropped : Prop :=
  (∀ (w : Word) (s : State), s.block.busy = true →
    writeCmd w s = .next { s with block := { s.block with ovr := true } }) ∧
  (∀ (i : Instr) (s : State), s.block.busy = true →
    exec i s = .next { s with block := { s.block with ovr := true } })

/-- Rules R68 and R104: an accepted word fails with the error of the first check that fails, and a failure
writes ERR, ERRCODE and DONE and nothing else. -/
def Obligations.FailedCommandWritesOnlyItsError : Prop :=
  ∀ (w : Word) (s : State) (e : ErrorKind), s.block.busy = false → wordError w s = some e →
    writeCmd w s = .next { s with block := { s.block with err := true, errCode := e.code, done := true } }

/-- Rule R69: a command that passes the checks leaves ERR, ERRCODE and OVR as they were and sets DONE, except
SEARCH, which leaves BUSY = 1 and DONE = 0 (rule R67). -/
def Obligations.SuccessfulCommandKeepsEarlierErrors : Prop :=
  ∀ (w : Word) (i : Instr) (s : State), s.block.busy = false → decode w = .ok i →
    commandError i s = none →
    ∃ b, writeCmd w s = .next { s with block := b } ∧
      b.err = s.block.err ∧ b.errCode = s.block.errCode ∧ b.ovr = s.block.ovr ∧
      ((∃ n, i = .search n) → b.busy = true ∧ b.done = false) ∧
      ((∀ n, i ≠ .search n) → b.busy = false ∧ b.done = true)

/-! ## The commands -/

/-- Rule R70: NOP. -/
def Obligations.NopOnlyCompletes : Prop :=
  ∀ s : State, s.block.busy = false →
    exec .nop s = .next { s with block := { s.block with done := true } }

/-- Rule R79: KSCHED writes K1 and K2, DOUT not, and the next read of SUBKEYS shows K2 above K1 (rule R23). -/
def Obligations.KschedWritesTheSubkeys : Prop :=
  ∀ (key : Key) (s : State), s.block.busy = false →
    let ks := deriveSubkeys s.cfg.tables key
    ∃ t, exec (.ksched key) s = .next t ∧
      t = { s with block := { s.block with k1 := ks.1, k2 := ks.2, done := true } } ∧
      (readReg .subkeys t).1.toNat = 256 * ks.2.toNat + ks.1.toNat

/-- Rules R80 and R81: ROUND writes the round of DATA under AUX to DOUT, whose next read shows it zero-extended
(rule R22). That round is what program P4 of 95_test_vectors.md builds: PERM EP of the right half, XOR with
the subkey, SBOX A of the first half and SBOX B of the second, PERM P4 of the two entries, XOR with the left
half, the right half unchanged. -/
def Obligations.RoundWritesDout : Prop :=
  ∀ (data aux : Byte) (s : State), s.block.busy = false →
    (let d := feistelRound s.cfg.tables data aux
     ∃ t, exec (.round data aux) s = .next t ∧
      t = { s with block := { s.block with dout := d.setWidth 10, done := true } } ∧
      (readReg .dout t).1.toNat = d.toNat) ∧
    (let val : BitVec 10 := data.setWidth 10
     let aux10 : BitVec 10 := aux.setWidth 10
     ∃ e a b f t : State,
      exec (.permEp (val &&& 0xF#10)) s = .next e ∧
      exec (.sboxA ((e.block.dout ^^^ aux10) >>> 4)) e = .next a ∧
      exec (.sboxB ((e.block.dout ^^^ aux10) &&& 0xF#10)) a = .next b ∧
      exec (.permP4 (4#10 * a.block.dout + b.block.dout)) b = .next f ∧
      exec (.round data aux) f = .next t ∧
      t.block.dout = 16#10 * (f.block.dout ^^^ (val >>> 4)) + (val &&& 0xF#10) ∧
      t.block.err = s.block.err ∧ t.block.errCode = s.block.errCode)

/-- Rules R82 and R85: ENC writes the ciphertext to DOUT and the subkeys to SUBKEYS. The ciphertext is what the
single commands build: PERM IP, ROUND with KSCHED's K1, the halves swapped by the host, ROUND with K2, PERM
IP_INV. -/
def Obligations.EncWritesCiphertextAndSubkeys : Prop :=
  ∀ (key : Key) (data : Byte) (s : State), s.block.busy = false →
    (let ks := deriveSubkeys s.cfg.tables key
     let c := encrypt s.cfg.tables data key
     ∃ t, exec (.enc key data) s = .next t ∧
      t = { s with block :=
        { s.block with dout := c.setWidth 10, k1 := ks.1, k2 := ks.2, done := true } } ∧
      (readReg .dout t).1.toNat = c.toNat ∧
      (readReg .subkeys t).1.toNat = 256 * ks.2.toNat + ks.1.toNat) ∧
    (∃ k i r q o t : State,
      exec (.ksched key) s = .next k ∧
      exec (.permIp (data.setWidth 10)) k = .next i ∧
      exec (.round (i.block.dout.setWidth 8) k.block.k1) i = .next r ∧
      exec (.round ((16#10 * (r.block.dout &&& 0xF#10) + (r.block.dout >>> 4)).setWidth 8) k.block.k2) r = .next q ∧
      exec (.permIpInv q.block.dout) q = .next o ∧
      exec (.enc key data) o = .next t ∧
      t.block.dout = o.block.dout ∧ t.block.k1 = k.block.k1 ∧ t.block.k2 = k.block.k2 ∧
      t.block.err = s.block.err ∧ t.block.errCode = s.block.errCode)

/-- Rules R83 and R86: DEC writes the plaintext to DOUT and the subkeys to SUBKEYS in the same layout as ENC. The
plaintext is what the single commands build, with the subkeys in reversed order: PERM IP, ROUND with KSCHED's
K2, the halves swapped by the host, ROUND with K1, PERM IP_INV. -/
def Obligations.DecWritesPlaintextAndSubkeys : Prop :=
  ∀ (key : Key) (data : Byte) (s : State), s.block.busy = false →
    (let ks := deriveSubkeys s.cfg.tables key
     let c := decrypt s.cfg.tables data key
     ∃ t, exec (.dec key data) s = .next t ∧
      t = { s with block :=
        { s.block with dout := c.setWidth 10, k1 := ks.1, k2 := ks.2, done := true } } ∧
      (readReg .dout t).1.toNat = c.toNat ∧
      (readReg .subkeys t).1.toNat = 256 * ks.2.toNat + ks.1.toNat) ∧
    (∃ k i r q o t : State,
      exec (.ksched key) s = .next k ∧
      exec (.permIp (data.setWidth 10)) k = .next i ∧
      exec (.round (i.block.dout.setWidth 8) k.block.k2) i = .next r ∧
      exec (.round ((16#10 * (r.block.dout &&& 0xF#10) + (r.block.dout >>> 4)).setWidth 8) k.block.k1) r = .next q ∧
      exec (.permIpInv q.block.dout) q = .next o ∧
      exec (.dec key data) o = .next t ∧
      t.block.dout = o.block.dout ∧ t.block.k1 = k.block.k1 ∧ t.block.k2 = k.block.k2 ∧
      t.block.err = s.block.err ∧ t.block.errCode = s.block.errCode)

/-- DOUT holds `v` and the command has completed: the next state of PERM, SBOX and ROTL5. -/
def Sys2Proof.Machine.completedWithDout (s : State) (v : BitVec 10) :
    Host.Outcome State Fault Refusal :=
  .next { s with block := { s.block with dout := v, done := true } }

/-- Rule R75 for the six tables, each with its input and output width (rule R57): a VAL that fits the input
width is permuted into DOUT. -/
def Obligations.PermAppliesItsTable : Prop :=
  ∀ s : State, s.block.busy = false →
    (∀ v : BitVec 10, exec (.permP10 v) s
      = completedWithDout s (permute v s.cfg.tables.p10 10)) ∧
    (∀ v : BitVec 10, exec (.permP8 v) s
      = completedWithDout s ((permute v s.cfg.tables.p8 8).setWidth 10)) ∧
    (∀ v : BitVec 8, exec (.permIp (v.setWidth 10)) s
      = completedWithDout s ((permute v s.cfg.tables.ip 8).setWidth 10)) ∧
    (∀ v : BitVec 8, exec (.permIpInv (v.setWidth 10)) s
      = completedWithDout s ((permute v s.cfg.tables.ipInv 8).setWidth 10)) ∧
    (∀ v : BitVec 4, exec (.permEp (v.setWidth 10)) s
      = completedWithDout s ((permute v s.cfg.tables.ep 8).setWidth 10)) ∧
    (∀ v : BitVec 4, exec (.permP4 (v.setWidth 10)) s
      = completedWithDout s ((permute v s.cfg.tables.p4 4).setWidth 10))

/-- Rules R74 and R77: SBOX reads row 2·h[3] + h[0] and column 2·h[2] + h[1] of its box into DOUT. -/
def Obligations.SboxLooksUpItsEntry : Prop :=
  ∀ (s : State) (h : BitVec 4), s.block.busy = false →
    let row := 2 * (h.getLsbD 3).toNat + (h.getLsbD 0).toNat
    let col := 2 * (h.getLsbD 2).toNat + (h.getLsbD 1).toNat
    exec (.sboxA (h.setWidth 10)) s
      = completedWithDout s (((s.cfg.tables.sboxA.getD row []).getD col 0).setWidth 10) ∧
    exec (.sboxB (h.setWidth 10)) s
      = completedWithDout s (((s.cfg.tables.sboxB.getD row []).getD col 0).setWidth 10)

/-- Rule R76: ROTL5 rotates a 5-bit VAL left by SEL, every amount being legal: position i of DOUT's 5-bit
value is position ((i − 1 + n) mod 5) + 1 of VAL. -/
def Obligations.Rotl5RotatesTheHalf : Prop :=
  ∀ (s : State) (v : BitVec 5) (n : Nat), s.block.busy = false →
    ∃ r : BitVec 5, exec (.rotl5 (v.setWidth 10) n) s = completedWithDout s (r.setWidth 10) ∧
      ∀ i, 1 ≤ i → i ≤ 5 → pos r i = pos v ((i - 1 + n) % 5 + 1)

/-- Rule R88: PCLR makes PAIRCNT and every entry 0; the results of the last search stay. -/
def Obligations.PclrEmptiesThePairTable : Prop :=
  ∀ s : State, s.block.busy = false →
    exec .pclr s = .next { s with block :=
      { s.block with
        pairCnt := 0
        pairP := List.replicate s.cfg.maxPairs 0
        pairC := List.replicate s.cfg.maxPairs 0
        done := true } }

/-- Rule R89: PADD appends the pair at index PAIRCNT, where the PAIR window then shows it (rule R30), and
fails with PairTableFull (code 6) on a full table. -/
def Obligations.PaddAppendsThePair : Prop :=
  ∀ (p c : Byte) (s : State), s.Inv → s.block.busy = false →
    (s.block.pairCnt.toNat < s.cfg.maxPairs →
      ∃ t, exec (.padd p c) s = .next t ∧
        t = { s with block :=
          { s.block with
            pairCnt := s.block.pairCnt + 1
            pairP := s.block.pairP.set s.block.pairCnt.toNat p
            pairC := s.block.pairC.set s.block.pairCnt.toNat c
            done := true } } ∧
        t.block.pairCnt.toNat = s.block.pairCnt.toNat + 1 ∧
        (∀ i : Fin 64, (readReg (.pair i) t).1.toNat =
          if i.val = s.block.pairCnt.toNat then 256 * c.toNat + p.toNat
          else (readReg (.pair i) s).1.toNat)) ∧
    (s.block.pairCnt.toNat = s.cfg.maxPairs →
      exec (.padd p c) s = .next { s with block :=
        { s.block with err := true, errCode := 6, done := true } })

/-- Rule R90, the acceptance step: on a table with a pair, BUSY = 1, DONE = 0, MATCH cleared, every key
pending, min(worker_count, NUM_LANES) lanes; on an empty table, EmptyPairSet (code 4). -/
def Obligations.SearchStartsTheScan : Prop :=
  ∀ (workers : Nat) (s : State), (Instr.search workers).wellFormed = true → s.block.busy = false →
    (s.block.pairCnt ≠ 0 →
      ∃ t, exec (.search workers) s = .next t ∧
        t = { s with block :=
          { s.block with
            busy := true
            done := false
            matchMap := 0#1024
            pending := t.block.pending
            activeLanes := min workers s.cfg.numLanes } } ∧
        (∀ k : Key, k ∈ t.block.pending) ∧ t.block.pending.Nodup) ∧
    (s.block.pairCnt = 0 →
      exec (.search workers) s = .next { s with block :=
        { s.block with err := true, errCode := 4, done := true } })

/-! ## The datapath -/

/-- Rule R72: position j of the permuted value is position T[j] of the input. -/
def Obligations.PermuteTakesTheNamedPositions : Prop :=
  ∀ (w out : Nat) (v : BitVec w) (T : List Nat), T.length = out → (∀ e ∈ T, 1 ≤ e ∧ e ≤ w) →
    ∀ j, 1 ≤ j → j ≤ out →
      (permute v T out).getLsbD (out - j) = v.getLsbD (w - entry T j)

/-- Rule R73: the rotation by any integer n, by its formula and by positions. -/
def Obligations.RotlMovesPositions : Prop :=
  ∀ (w : Nat) (v : BitVec w) (n : Int), 1 ≤ w →
    let m := (n % (w : Int)).toNat
    m < w ∧
    (m = 0 → rotl v n = v) ∧
    (m ≠ 0 → (rotl v n).toNat = (v.toNat <<< m ||| v.toNat >>> (w - m)) &&& (2 ^ w - 1)) ∧
    (∀ i, 1 ≤ i → i ≤ w → pos (rotl v n) i = pos v ((i - 1 + m) % w + 1))

/-- Rule R78: the second rotation starts from the once-rotated halves, "net rotation of 3 from the permuted
original". -/
def Obligations.SecondSubkeyIsNetRotationByThree : Prop :=
  ∀ (t : Tables) (key : Key),
    let p := permute key t.p10 10
    let l0 : BitVec 5 := p.extractLsb' 5 5
    let r0 : BitVec 5 := p.extractLsb' 0 5
    deriveSubkeys t key =
      (permute (cat (rotl l0 1) (rotl r0 1) 10) t.p8 8, permute (cat (rotl l0 3) (rotl r0 3) 10) t.p8 8)

/-- Rules R80 and R81: the right half passes through unchanged, and the round is an involution for a fixed
subkey, under every TABLES. -/
def Obligations.RoundIsItsOwnInverse : Prop :=
  ∀ (t : Tables) (d k : Byte),
    (feistelRound t d k).extractLsb' 0 4 = d.extractLsb' 0 4 ∧
    feistelRound t (feistelRound t d k) k = d

/-- Rule R84, the round-trip law, under every TABLES that satisfies rule R36. -/
def Obligations.DecryptInvertsEncrypt : Prop :=
  ∀ (t : Tables), t.Valid → ∀ (p : Byte) (key : Key), decrypt t (encrypt t p key) key = p

/-- Rule R85, corner cases: the cipher is a bijection on blocks for each key. -/
def Obligations.EncryptIsABijection : Prop :=
  ∀ (t : Tables), t.Valid → ∀ key : Key, Function.Bijective fun p : Byte => encrypt t p key

/-- Rule R75, corner cases: VAL = 0 gives 0 and VAL all ones gives all ones, for each table of a TABLES that
satisfies rule R36. -/
def Obligations.PermutationsKeepAllZerosAndAllOnes : Prop :=
  ∀ (t : Tables), t.Valid →
    ∀ row ∈ [(10, t.p10, 10), (10, t.p8, 8), (8, t.ip, 8), (8, t.ipInv, 8), (4, t.ep, 8), (4, t.p4, 4)],
      permute (0#row.1) row.2.1 row.2.2 = 0#row.2.2 ∧
      permute (BitVec.allOnes row.1) row.2.1 row.2.2 = BitVec.allOnes row.2.2

/-- Rule R75, corner cases: PERM IP_INV applied to the result of PERM IP returns the original value, on the
machine. -/
def Obligations.PermIpInvUndoesPermIp : Prop :=
  ∀ (s : State) (v : Byte), s.cfg.Valid → s.block.busy = false →
    ∃ t u, exec (.permIp (v.setWidth 10)) s = .next t ∧ exec (.permIpInv t.block.dout) t = .next u ∧
      u = { s with block := { s.block with dout := v.setWidth 10, done := true } }

/-- The commands of rule R71 that read nothing but their word and the tables. -/
def Sys2Proof.Machine.readsOnlyItsWord : Instr → Bool
  | .enc _ _ => true
  | .dec _ _ => true
  | .ksched _ => true
  | .round _ _ => true
  | .permP10 _ => true
  | .permP8 _ => true
  | .permIp _ => true
  | .permIpInv _ => true
  | .permEp _ => true
  | .permP4 _ => true
  | .sboxA _ => true
  | .sboxB _ => true
  | .rotl5 _ _ => true
  | .nop => false
  | .pclr => false
  | .padd _ _ => false
  | .search _ => false

/-- Rule R71: the result of such a command is the same from any two idle states of one TABLES: whether it
fails, and which of DOUT, K1 and K2 it writes with which value, does not depend on any earlier command. -/
def Obligations.CipherResultsIgnoreEarlierState : Prop :=
  ∀ (i : Instr) (tables : Tables), readsOnlyItsWord i = true →
    (∃ e : ErrorKind, ∀ s : State, s.cfg.tables = tables → s.block.busy = false →
      exec i s = .next { s with block := { s.block with err := true, errCode := e.code, done := true } }) ∨
    (∃ (d : Option (BitVec 10)) (ks : Option (Byte × Byte)), ∀ s : State, s.cfg.tables = tables →
      s.block.busy = false →
      exec i s = .next { s with block :=
        { s.block with
          dout := d.getD s.block.dout
          k1 := (ks.map (·.1)).getD s.block.k1
          k2 := (ks.map (·.2)).getD s.block.k2
          done := true } })

/-! ## The register window -/

/-- Rules R18, R44 and R45: an offset is mapped exactly where the map puts a register, and an access outside
BASE … BASE + 0xFFF does not reach the block. That the host then sees `notSelected` is the model's word for
"no answer of this block" (log entry 6). -/
def Obligations.WindowMapsTheListedOffsets : Prop :=
  (∀ (offset : Nat) (r : Reg), regAt offset = some r ↔ offset = r.offset) ∧
  (∀ offset : Nat, offset ≤ 0xFFF → offset % 4 = 0 →
    ((0x02C ≤ offset ∧ offset ≤ 0x0FC) ∨ 0x280 ≤ offset ↔ ∀ r : Reg, offset ≠ r.offset)) ∧
  (∀ (a : BusAccess) (s : State), (a.addr < s.cfg.base ∨ s.cfg.base + 0xFFF < a.addr) →
    performAccess a s =
      .next { s with host := { s.host with trace := (a, .notSelected) :: s.host.trace } })

/-- Rules R41 and R46: an access in the window of another width than 32 bits, or not aligned, or to an
unmapped offset (rule R45), gets BusError and changes no state of the block. -/
def Obligations.RefusedAccessIsABusError : Prop :=
  ∀ (a : BusAccess) (s : State), s.cfg.base ≤ a.addr → a.addr ≤ s.cfg.base + 0xFFF →
    (a.width ≠ .word ∨ (a.addr - s.cfg.base) % 4 ≠ 0 ∨ ∀ r : Reg, a.addr ≠ regAddr s.cfg r) →
    performAccess a s =
      .next { s with host := { s.host with trace := (a, .error a.addr) :: s.host.trace } }

/-- Rule R43: a read changes nothing but the count of draws (the model's own field), and outside the
search-result hazard not even that, so that two reads with no step between them agree. -/
def Obligations.ReadsHaveNoSideEffect : Prop :=
  ∀ (r : Reg) (s : State),
    (∃ n, (readReg r s).2 = { s with draws := n }) ∧
    (s.Inv → s.resultHazard r = false →
      (readReg r s).2 = s ∧ ∀ n, (readReg r { s with draws := n }).1 = (readReg r s).1)

/-- Rule R18: "A reserved bit reads 0", in every register (result registers while BUSY = 0). -/
def Obligations.ReservedBitsReadZero : Prop :=
  ∀ (r : Reg) (s : State), s.Inv → s.resultHazard r = false →
    (readReg r s).1 &&& ~~~r.fieldMask = 0

/-- The fields of the registers that the search hazard never touches (rules R19 to R24, R27, R28, R30), and
MATCHCNT and ELAPSED while BUSY = 0 (rules R25, R26). -/
def Obligations.RegistersReadTheirFields : Prop :=
  ∀ s : State,
    (readReg .cmd s).1 = 0 ∧
    (readReg .status s).1.toNat =
      s.block.busy.toNat + 2 * s.block.done.toNat + 4 * s.block.err.toNat + 8 * s.block.ovr.toNat +
        16 * s.block.errCode.toNat ∧
    (readReg .ctrl s).1.toNat = s.block.ie.toNat ∧
    (readReg .dout s).1.toNat = s.block.dout.toNat ∧
    (readReg .subkeys s).1.toNat = 256 * s.block.k2.toNat + s.block.k1.toNat ∧
    (readReg .paircnt s).1.toNat = s.block.pairCnt.toNat ∧
    (readReg .ridx s).1.toNat = s.block.ridx.toNat ∧
    (s.Inv → (readReg .caps s).1.toNat =
      65536 * s.cfg.tableSet.toNat + 256 * s.cfg.maxPairs + s.cfg.numLanes) ∧
    (∀ i : Fin 64, (readReg (.pair i) s).1.toNat =
      256 * (s.block.pairC.getD i.val 0).toNat + (s.block.pairP.getD i.val 0).toNat) ∧
    (s.Inv → ∀ i : Fin 64, s.cfg.maxPairs ≤ i.val → (readReg (.pair i) s).1 = 0) ∧
    (s.block.busy = false →
      (readReg .matchcnt s).1.toNat = s.block.matchCnt.toNat ∧ (readReg .elapsed s).1 = s.block.elapsed)

/-- Rule R20: the effect of a host write to STATUS, at any time: bits of w at 1 clear DONE, ERR (with ERRCODE)
and OVR, and nothing else changes. -/
def Obligations.StatusWriteClearsWhatIsWrittenOne : Prop :=
  ∀ (w : Word) (s : State),
    ∃ b, writeReg .status w s = .next { s with block := b } ∧
      b = { s.block with done := b.done, err := b.err, errCode := b.errCode, ovr := b.ovr } ∧
      b.done = (if w.getLsbD 1 then false else s.block.done) ∧
      b.err = (if w.getLsbD 2 then false else s.block.err) ∧
      b.errCode = (if w.getLsbD 2 then 0 else s.block.errCode) ∧
      b.ovr = (if w.getLsbD 3 then false else s.block.ovr)

/-- Rules R21 and R28: a write of CTRL stores w[0] in IE and one of RIDX stores w[9:0], at any time; both
read back; reset makes them 0; no command changes either. -/
def Obligations.ControlAndIndexAreStored : Prop :=
  (∀ (w : Word) (s : State),
    ∃ t, writeReg .ctrl w s = .next t ∧ t = { s with block := { s.block with ie := w.getLsbD 0 } } ∧
      (readReg .ctrl t).1 = w &&& 1) ∧
  (∀ (w : Word) (s : State),
    ∃ t, writeReg .ridx w s = .next t ∧
      t = { s with block := { s.block with ridx := w.setWidth 10 } } ∧
      (readReg .ridx t).1 = w &&& 0x3FF) ∧
  (∀ p : Params, (Block.reset p).ie = false ∧ (Block.reset p).ridx = 0) ∧
  (∀ (w : Word) (s t : State), writeCmd w s = .next t →
    t.block.ie = s.block.ie ∧ t.block.ridx = s.block.ridx)

/-- Rule R43: a write to any read-only register is ignored and raises no error. -/
def Obligations.ReadOnlyRegistersIgnoreWrites : Prop :=
  ∀ (r : Reg) (w : Word) (s : State), r ∉ [Reg.cmd, .status, .ctrl, .ridx] →
    performAccess (writeAccess s.cfg r w) s =
      .next { s with host :=
        { s.host with trace := (writeAccess s.cfg r w, .written) :: s.host.trace } }

/-- Rules R29 and R32: with BUSY = 0, RKEY for RIDX below MATCHCNT is the matching key with exactly RIDX
matching keys below it, with VALID; at or above MATCHCNT it is 0; MATCHMAP[w] shows MATCH[32·w + b] in bit b. -/
def Obligations.RkeyAndMatchmapShowTheMatches : Prop :=
  ∀ s : State, s.Inv → s.block.busy = false →
    (s.block.ridx.toNat < s.block.matchCnt.toNat →
      ∃ k : Key, (readReg .rkey s).1.toNat = 2 ^ 31 + k.toNat ∧
        s.block.matchMap.getLsbD k.toNat = true ∧
        (allKeys.filter fun j => s.block.matchMap.getLsbD j.toNat && decide (j.toNat < k.toNat)).length
          = s.block.ridx.toNat) ∧
    (s.block.matchCnt.toNat ≤ s.block.ridx.toNat → (readReg .rkey s).1 = 0) ∧
    (∀ (w : Fin 32) (b : Nat), b < 32 →
      (readReg (.matchmap w) s).1.getLsbD b = s.block.matchMap.getLsbD (32 * w.val + b))

/-- Rule R121: while BUSY = 1, MATCHCNT, ELAPSED, RKEY and MATCHMAP read as the next draw (nothing is known of
its value), each read being a draw of its own. That a draw is `Config.draw` at the counter `draws`, which it
advances, is the model's form of the spec's `draw()` (its own choice, log entry 1). Every other register reads as it does without the search
(STATUS but for BUSY). -/
def Obligations.ResultReadsWhileBusyAreDraws : Prop :=
  ∀ (r : Reg) (s : State), s.block.busy = true →
    (r.isSearchResult = true →
      readReg r s = (Config.draw s.draws, { s with draws := s.draws + 1 })) ∧
    (r.isSearchResult = false →
      (readReg r s).2 = s ∧
      (readReg r s).1 =
        (readReg r { s with block := { s.block with busy := false } }).1 ||| (if r = .status then 1 else 0))

/-- Rule R111: with IE = 1 `irq` is high after every accepted command but a SEARCH that starts; it is low from
a SEARCH's acceptance to the join, and high at the join. -/
def Obligations.IrqRisesAtCompletion : Prop :=
  (∀ (w : Word) (s t : State), s.block.busy = false → s.block.ie = true → writeCmd w s = .next t →
    irq t.block = !t.block.busy) ∧
  (∀ s : State, s.Inv → s.block.busy = true → irq s.block = false) ∧
  (∀ s : State, s.block.ie = true → irq (joinMove s).block = true) ∧
  (∀ s : State, s.block.ie = false → irq s.block = false)

/-! ## Reset and the whole machine -/

/-- Rule R39: the architectural state after reset, for every setting of the parameters, which reset does not
change. -/
def Obligations.ResetLeavesTheSpecsState : Prop :=
  ∀ p : Params,
    let b := Block.reset p
    statusWord b = 0 ∧ b.ie = false ∧ b.dout = 0 ∧ b.k1 = 0 ∧ b.k2 = 0 ∧ b.pairCnt = 0 ∧
    b.pairP.length = p.maxPairs ∧ b.pairC.length = p.maxPairs ∧
    (∀ i, b.pairP.getD i 0 = 0 ∧ b.pairC.getD i 0 = 0) ∧
    b.matchCnt = 0 ∧ (∀ k : Key, b.matchMap.getLsbD k.toNat = false) ∧
    b.elapsed = 0 ∧ b.ridx = 0 ∧ b.pending = [] ∧ b.activeLanes = 1 ∧ irq b = false ∧
    (∀ s : State, s.block = b →
      (readReg .rkey s).1 = 0 ∧ ∀ w : Fin 32, (readReg (.matchmap w) s).1 = 0) ∧
    (∀ s : State, s.cfg = p → (resetMove s).block = b ∧ (resetMove s).cfg = p)

/-- Rule R119: a reset during a search ends it, with no DONE and no `irq`, and it is the only way a search ends
before its join: any other step that takes BUSY from 1 to 0 is the join with no key pending. -/
def Obligations.ResetEndsASearch : Prop :=
  (∀ (s : State) (ts : List Turn), s.turns = .reset :: ts →
    ∃ t, step s = .next t ∧ t = { s with turns := ts, block := Block.reset s.cfg } ∧
      t.block.busy = false ∧ t.block.pending = [] ∧ t.block.matchMap = 0#1024 ∧
      t.block.done = false ∧ irq t.block = false ∧
      (readReg .caps t).1 = (readReg .caps s).1) ∧
  (∀ s t : State, s.block.busy = true → step s = .next t → t.block.busy = false →
    s.turns.head? = some .reset ∨ (s.block.pending = [] ∧ t.block.done = true))

/-- Rules R27 and R36: no step changes the parameters. -/
def Obligations.ParametersNeverChange : Prop :=
  ∀ s t : State, step s = .next t → t.cfg = s.cfg

/-- Rule R20, the column "cleared by": ERR and OVR go from 1 to 0 only in a reset step or in a host write to
STATUS with the flag's bit at 1. -/
def Obligations.StickyFlagsNeedAWriteOrAReset : Prop :=
  ∀ s t : State, step s = .next t →
    (s.block.err = true → t.block.err = false →
      s.turns.head? = some .reset ∨
      ∃ v, t.host.trace = (writeAccess s.cfg .status v, .written) :: s.host.trace ∧
        v.getLsbD 2 = true) ∧
    (s.block.ovr = true → t.block.ovr = false →
      s.turns.head? = some .reset ∨
      ∃ v, t.host.trace = (writeAccess s.cfg .status v, .written) :: s.host.trace ∧
        v.getLsbD 3 = true)

/-- The reset state meets the invariant of Safety.lean (rules R20, R24, R25, R31, R33, R103). -/
def Obligations.ResetMeetsTheInvariant : Prop := State.reset.Inv

/-- Every step, from every state that meets it, keeps the invariant: the pair table's zeros above PAIRCNT (rule
R31), SEARCH_PENDING a set and empty when idle (R33), ERRCODE tied to ERR and never a reserved code (R20,
R103), the partial match map exactly right (R91), MATCHCNT the number of matches (R25). -/
def Obligations.EveryStepKeepsTheInvariant : Prop :=
  ∀ s t : State, s.Inv → step s = .next t → t.Inv

/-- From a state that meets the invariant the machine never stops: no command, access, lane step, join or
reset ends in a fault or a refusal. -/
def Obligations.TheMachineNeverStops : Prop :=
  ∀ s : State, s.Inv → ∃ t, step s = .next t

/-! ## The key search -/

/-- Rule R91: an enabled lane's step takes some pending key out of SEARCH_PENDING and writes its MATCH entry
alone, with the candidate predicate of rule R87; every pending key is some choice (the form of the choice is the
model's own, log entry 2); a lane that is not enabled takes no step: its turn passes (turns are the model's own,
log entry 4). -/
def Obligations.LaneStepChecksOnePendingKey : Prop :=
  ∀ (s : State) (ts : List Turn) (l : Nat),
    (s.block.busy = true ∧ s.block.pending ≠ [] ∧ l < s.block.activeLanes →
      (∀ c, s.turns = .lane l c :: ts → ∃ k ∈ s.block.pending, ∃ m : MatchMap,
        step s = .next { s with
          turns := ts
          block := { s.block with pending := s.block.pending.erase k, matchMap := m } } ∧
        ∀ j : Key, m.getLsbD j.toNat =
          if j = k then
            (List.range s.block.pairCnt.toNat).all fun i =>
              encrypt s.cfg.tables (s.block.pairP.getD i 0) k == s.block.pairC.getD i 0
          else s.block.matchMap.getLsbD j.toNat) ∧
      (∀ k ∈ s.block.pending, ∃ c, ∀ t,
        step { s with turns := .lane l c :: ts } = .next t →
        t.block.pending = s.block.pending.erase k)) ∧
    (¬ (s.block.busy = true ∧ s.block.pending ≠ [] ∧ l < s.block.activeLanes) →
      ∀ c, s.turns = .lane l c :: ts → step s = .next { s with turns := ts })

/-- Rule R92: the join, when it is enabled, makes MATCHCNT the number of keys with MATCH[k] = 1, ELAPSED a draw
(any value; that it is `Config.draw` at the counter `draws`, which the join advances, is the model's own choice,
log entry 1), BUSY 0 and DONE 1, and changes nothing else. That a turn of a join that is not enabled passes
without effect is the model's own choice too (log entry 4). -/
def Obligations.JoinPublishesTheCount : Prop :=
  ∀ (s : State) (ts : List Turn), s.turns = .join :: ts →
    (s.block.busy = true ∧ s.block.pending = [] →
      ∃ n : BitVec 11,
        n.toNat = (allKeys.filter fun k => s.block.matchMap.getLsbD k.toNat).length ∧
        step s = .next { s with
          turns := ts
          draws := s.draws + 1
          block := { s.block with
            matchCnt := n, elapsed := Config.draw s.draws, busy := false, done := true } }) ∧
    (¬ (s.block.busy = true ∧ s.block.pending = []) → step s = .next { s with turns := ts })

/-- Rules R91 and R95: while a search runs and no reset comes, no step changes the pair table, the cipher
results or the lanes, and no command is executed. -/
def Obligations.NothingDisturbsARunningSearch : Prop :=
  ∀ s t : State, s.block.busy = true → s.turns.head? ≠ some .reset → step s = .next t →
    t.block.pairCnt = s.block.pairCnt ∧ t.block.pairP = s.block.pairP ∧
    t.block.pairC = s.block.pairC ∧ t.block.activeLanes = s.block.activeLanes ∧
    t.block.dout = s.block.dout ∧ t.block.k1 = s.block.k1 ∧ t.block.k2 = s.block.k2 ∧
    (∀ k ∈ t.block.pending, k ∈ s.block.pending)

/-- Rule R93, the result law. From any state of a running search, through any number of steps with any
interleaving of lanes and host accesses and any number of lanes, the step that ends the search (no reset
among the turns) leaves MATCH[k] = 1 exactly for the candidates over the pair table, MATCHCNT their number,
and RKEY at RIDX = j the j-th smallest of them (with VALID, bit 31). -/
def Obligations.SearchFindsExactlyTheCandidates : Prop :=
  ∀ (n : Nat) (s u t : State), s.Inv →
    (∀ turn ∈ s.turns.take (n + 1), turn ≠ .reset) →
    (∀ m ≤ n, ∀ v : State, core.run m s = .next v → v.block.busy = true) →
    core.run n s = .next u → step u = .next t → t.block.busy = false →
    let cand := candidateOver s.cfg.tables s.block.pairP s.block.pairC s.block.pairCnt.toNat
    (∀ k : Key, t.block.matchMap.getLsbD k.toNat = cand k) ∧
    t.block.matchCnt.toNat = (allKeys.filter cand).length ∧
    (∀ (j : BitVec 10) (k : Key), (allKeys.filter cand)[j.toNat]? = some k →
      (readReg .rkey { t with block := { t.block with ridx := j } }).1.toNat = 2 ^ 31 + k.toNat) ∧
    t.block.done = true ∧
    t.block.pairCnt = s.block.pairCnt ∧ t.block.pairP = s.block.pairP ∧ t.block.pairC = s.block.pairC

/-- Rule R94: every search ends. When the given turns have run out (the model's fairness, log entry 4), at
most one lane step for each pending key and one join remain, and the results are then the candidates. -/
def Obligations.EverySearchEnds : Prop :=
  (∀ s : State, s.Inv → s.block.busy = true → s.turns = [] →
    ∃ t, core.run (s.block.pending.length + 1) s = .next t ∧ t.block.busy = false ∧
      t.block.done = true ∧
      ∀ k : Key, t.block.matchMap.getLsbD k.toNat =
        candidateOver s.cfg.tables s.block.pairP s.block.pairC s.block.pairCnt.toNat k) ∧
  (∀ s : State, s.Inv → ∃ n ≤ s.turns.length + 1025, ∃ t,
    core.run n s = .next t ∧ t.block.busy = false)

/-- The line `l` makes the host write the word `w` to CMD (rule R63). -/
def Sys2Proof.Machine.writesCommand (p : Params) (w : Word) (l : HostLine) : Prop :=
  l = .bus (writeAccess p .cmd w) ∨ l = .wr .cmd w ∨ ∃ i, i.wellFormed = true ∧ encode i = w ∧ l = .cmd i

/-- Rule R105 and program P6 of 95_test_vectors.md: when the write of any word to CMD and the join are both
possible next steps, either may come first. If the write comes first it is dropped: OVR is set, and no result
but the search's is there. If the join comes first the write is accepted: the block is what the word's command
makes of the joined block, and OVR is as before. MATCHCNT is the number of matches in both orders, and MATCH
the same unless the word is an accepted SEARCH, which clears it. (The order is given by the turns, the model's
own field, log entry 4.) -/
def Obligations.JoinAndCommandInEitherOrder : Prop :=
  ∀ (s : State) (w : Word) (l : HostLine) (ts : List Turn) (ls : List HostLine),
    s.block.busy = true → s.block.pending = [] → writesCommand s.cfg w l → s.host.prog = l :: ls →
    let count := (allKeys.filter fun k => s.block.matchMap.getLsbD k.toNat).length
    (∃ t, core.run 2 { s with turns := .host :: .join :: ts } = .next t ∧
      t.block = { s.block with
        busy := false, done := true, ovr := true
        matchCnt := t.block.matchCnt, elapsed := t.block.elapsed } ∧
      t.block.matchCnt.toNat = count) ∧
    (∃ j t : State, step { s with turns := .join :: .host :: ts } = .next j ∧
      j.block = { s.block with
        busy := false, done := true
        matchCnt := j.block.matchCnt, elapsed := j.block.elapsed } ∧
      core.run 2 { s with turns := .join :: .host :: ts } = .next t ∧
      writeCmd w j = .next { j with block := t.block } ∧
      t.block.ovr = s.block.ovr ∧ t.block.matchCnt.toNat = count ∧
      ((∀ n, decode w ≠ .ok (.search n)) → t.block.busy = false ∧ t.block.matchMap = s.block.matchMap) ∧
      (∀ key data, decode w = .ok (.enc key data) →
        t.block.dout = (encrypt s.cfg.tables data key).setWidth 10))

/-- Rules R87, R89 and R93: a pair made with k0 keeps k0 a candidate; a pair that is appended twice changes no
candidate; two pairs with one plaintext and two ciphertexts leave none; and a table's candidates are those
of its two parts together (rule R100). -/
def Obligations.CandidatesAreAConjunction : Prop :=
  ∀ (t : Tables) (ps cs ps' cs' : List Byte), cs.length = ps.length → cs'.length = ps'.length →
    let cand (ps cs : List Byte) (k : Key) : Bool := candidateOver t ps cs ps.length k
    (∀ k0 : Key, (∀ i < ps.length, cs.getD i 0 = encrypt t (ps.getD i 0) k0) → cand ps cs k0 = true) ∧
    (∀ (k : Key) (i : Nat), i < ps.length →
      cand (ps ++ [ps.getD i 0]) (cs ++ [cs.getD i 0]) k = cand ps cs k) ∧
    (∀ (k : Key) (i j : Nat), i < ps.length → j < ps.length → ps.getD i 0 = ps.getD j 0 →
      cs.getD i 0 ≠ cs.getD j 0 → cand ps cs k = false) ∧
    (∀ k : Key, cand (ps ++ ps') (cs ++ cs') k = (cand ps cs k && cand ps' cs' k))

/-! ## The host adapter -/

/-- Rules R96 and R97: the characters are checked before the length, the value is the positional one, and
rendering and parsing are inverse. -/
def Obligations.ParseAndRenderAreInverse : Prop :=
  (∀ (cs : List Char) (w : Nat) (e : ErrorKind),
    ((∃ c ∈ cs, c ≠ '0' ∧ c ≠ '1') → parseBits cs w e = .error .invalidBitString) ∧
    ((∀ c ∈ cs, c = '0' ∨ c = '1') → cs.length ≠ w → parseBits cs w e = .error e) ∧
    ((∀ c ∈ cs, c = '0' ∨ c = '1') → cs.length = w →
      ∃ v : BitVec w, parseBits cs w e = .ok v ∧ renderBits v = cs ∧
        ∀ j < w, v.getLsbD (w - 1 - j) = (cs.getD j '0' == '1'))) ∧
  (∀ (w : Nat) (e : ErrorKind) (v : BitVec w),
    (renderBits v).length = w ∧ (∀ j < w, (renderBits v).getD j '0' = if v.getLsbD (w - 1 - j) then '1' else '0') ∧
    parseBits (renderBits v) w e = .ok v)

/-- Rules R98 and R99, with the host as the only master and the block idle: the program of `encrypt` (of
`decrypt`) makes three accesses and returns the rendered ciphertext (plaintext). -/
def Obligations.HostCipherOperationsReturnTheResult : Prop :=
  ∀ (s : State) (text key : List Char) (p : Byte) (k : Key),
    s.block.busy = false → s.turns = [] →
    parseBits text 8 .invalidBlockLength = .ok p → parseBits key 10 .invalidKeyLength = .ok k →
    (∃ ls, hostEncrypt text key = .performs ls ∧
      ∃ t, core.run 3 { s with host := { s.host with prog := ls } } = .next t ∧
        t.host.prog = [] ∧ t.host.trace.length = s.host.trace.length + 3 ∧
        cipherResult t.host = some (renderBits (encrypt s.cfg.tables p k))) ∧
    (∃ ls, hostDecrypt text key = .performs ls ∧
      ∃ t, core.run 3 { s with host := { s.host with prog := ls } } = .next t ∧
        t.host.prog = [] ∧ t.host.trace.length = s.host.trace.length + 3 ∧
        cipherResult t.host = some (renderBits (decrypt s.cfg.tables p k)))

/-- Rule R100: the pairs are cut into chunks of at most MAX_PAIRS consecutive pairs, in order; no pair is lost
and no chunk is empty. -/
def Obligations.ChunksHoldEveryPairInOrder : Prop :=
  ∀ (n : Nat) (pairs : List (Byte × Byte)), 1 ≤ n →
    (pairChunks n pairs).flatten = pairs ∧
    ∀ chunk ∈ pairChunks n pairs, chunk ≠ [] ∧ chunk.length ≤ n

/-- Rules R117 and R125: when the host has performed its last access (that is, no line is left: the model's choice,
log entry 17) and BUSY = 0, and no turn is given, the machine is at rest; while a search runs it is not. That with no turn given the block moves before the host, so
that the step of a running search changes the block, is the model's own form of rule R94's fairness (log entry
4); the spec also admits a host access there. -/
def Obligations.EndedRunIsAtRest : Prop :=
  (∀ s : State, s.runEnded = true → s.turns = [] → step s = .next s) ∧
  (∀ s : State, s.Inv → s.block.busy = true → s.turns = [] →
    ∃ t, step s = .next t ∧ t.block ≠ s.block)
end

