-- ==== Sys2Proof/Laws/Bits.lean ====
section
/-! SUPPORT. Laws of the bit-level functions: positions and permutations, the keyspace, the match map and the
result list. -/

namespace Sys2Proof.Machine

/-! ### Positions and permutations -/

/-- Two values with the same positions are equal. -/
theorem eq_of_pos_eq {w : Nat} {x y : BitVec w} (h : ∀ j, 1 ≤ j → j ≤ w → pos x j = pos y j) : x = y := by
  apply BitVec.eq_of_getLsbD_eq
  intro i hi
  have := h (w - i) (by omega) (by omega)
  unfold pos at this
  rwa [show w - (w - i) = i by omega] at this

/-- Position j of `permute v T` is the position of v that T's j-th entry names. -/
theorem pos_permute {w out : Nat} (v : BitVec w) (T : List Nat) (hT : T.length = out) (j : Nat)
    (h1 : 1 ≤ j) (h2 : j ≤ out) : pos (permute v T out) j = pos v (entry T j) := by
  subst hT
  have hj : j - 1 < T.length := by omega
  unfold pos permute entry
  have hw : (T.map (pos v)).length = T.length := List.length_map ..
  rw [BitVec.getLsbD_setWidth]
  have e : (BitVec.ofBoolListBE (T.map (pos v))).getLsbD (T.length - j)
      = (BitVec.ofBoolListBE (T.map (pos v))).getMsbD (j - 1) := by
    rw [BitVec.getMsbD_eq_getLsbD]
    simp only [List.length_map, hj, decide_true, Bool.true_and]
    congr 1
    omega
  rw [e, BitVec.getMsbD_ofBoolListBE]
  simp only [List.getD_eq_getElem?_getD, List.getElem?_map, List.getElem?_eq_getElem hj, Option.map_some,
    Option.getD_some, pos]
  rw [Bool.and_eq_right_iff_imp]
  intro _
  simp only [decide_eq_true_eq]
  omega

/-! ### The keyspace -/

@[simp] theorem allKeys_length : allKeys.length = 1024 := by simp [allKeys]

@[simp] theorem mem_allKeys (k : Key) : k ∈ allKeys := by
  simp only [allKeys, List.mem_map, List.mem_range]
  exact ⟨k.toNat, k.isLt, by simp⟩

theorem allKeys_ascending : allKeys.Pairwise fun j k => j.toNat < k.toNat := by
  rw [allKeys, List.pairwise_map]
  refine List.pairwise_lt_range.imp_of_mem ?_
  intro a b ha hb hab
  simp only [List.mem_range] at ha hb
  simp only [BitVec.toNat_ofNat]
  omega

/-! ### The match map -/

/-- MATCH[j] after `MATCH[k] <- v`. -/
theorem getLsbD_setMatch (m : MatchMap) (k j : Key) (v : Bool) :
    (setMatch m k v).getLsbD j.toNat = if j = k then v else m.getLsbD j.toNat := by
  have hk : k.toNat < 1024 := k.isLt
  have hj : j.toNat < 1024 := j.isLt
  have hjk : j = k ↔ j.toNat = k.toNat := BitVec.toNat_inj.symm
  have hbit : (1#1024 <<< k.toNat).getLsbD j.toNat = decide (j = k) := by
    rw [BitVec.getLsbD_shiftLeft, BitVec.getLsbD_one]
    by_cases h : j = k
    · subst h; simp [hj]
    · have : j.toNat ≠ k.toNat := fun e => h (hjk.mpr e)
      simp only [h, decide_false]
      rcases Nat.lt_or_ge j.toNat k.toNat with hlt | hge
      · simp [hlt]
      · simp [show ¬ j.toNat - k.toNat = 0 by omega]
  unfold setMatch
  cases v
  · simp only [Bool.false_eq_true, if_false, BitVec.getLsbD_and, BitVec.getLsbD_not, hbit, hj]
    by_cases h : j = k <;> simp [h]
  · simp only [if_true, BitVec.getLsbD_or, hbit]
    by_cases h : j = k <;> simp [h]

@[simp] theorem mem_resultList (m : MatchMap) (k : Key) : k ∈ resultList m ↔ m.getLsbD k.toNat = true := by
  simp [resultList]

theorem resultList_ascending (m : MatchMap) : (resultList m).Pairwise fun j k => j.toNat < k.toNat :=
  allKeys_ascending.filter _

theorem matchCount_le (m : MatchMap) : matchCount m ≤ 1024 :=
  (List.length_filter_le _ _).trans (by simp)

@[simp] theorem matchCount_zero : matchCount 0 = 0 := by
  simp [matchCount, resultList]

/-- A match map that says "member of P" for every key has the members of P, in order, as its result list. -/
theorem resultList_eq_filter (m : MatchMap) (P : Key → Bool) (h : ∀ k : Key, m.getLsbD k.toNat = P k) :
    resultList m = allKeys.filter P := List.filter_congr fun k _ => h k

end Sys2Proof.Machine
end

