-- ==== Sys2Proof/Laws/State.lean ====
section
/-! SUPPORT. One lemma for each field of each update of the state, true by rfl, so that no later proof unfolds
a record update. -/

namespace Sys2Proof.Machine

section
variable (b : Block)

/-! ### clearDone -/

@[simp] theorem clearDone_busy : (clearDone b).busy = b.busy := rfl
@[simp] theorem clearDone_done : (clearDone b).done = false := rfl
@[simp] theorem clearDone_err : (clearDone b).err = b.err := rfl
@[simp] theorem clearDone_ovr : (clearDone b).ovr = b.ovr := rfl
@[simp] theorem clearDone_errCode : (clearDone b).errCode = b.errCode := rfl
@[simp] theorem clearDone_ie : (clearDone b).ie = b.ie := rfl
@[simp] theorem clearDone_dout : (clearDone b).dout = b.dout := rfl
@[simp] theorem clearDone_k1 : (clearDone b).k1 = b.k1 := rfl
@[simp] theorem clearDone_k2 : (clearDone b).k2 = b.k2 := rfl
@[simp] theorem clearDone_pairCnt : (clearDone b).pairCnt = b.pairCnt := rfl
@[simp] theorem clearDone_pairP : (clearDone b).pairP = b.pairP := rfl
@[simp] theorem clearDone_pairC : (clearDone b).pairC = b.pairC := rfl
@[simp] theorem clearDone_matchMap : (clearDone b).matchMap = b.matchMap := rfl
@[simp] theorem clearDone_matchCnt : (clearDone b).matchCnt = b.matchCnt := rfl
@[simp] theorem clearDone_elapsed : (clearDone b).elapsed = b.elapsed := rfl
@[simp] theorem clearDone_ridx : (clearDone b).ridx = b.ridx := rfl
@[simp] theorem clearDone_pending : (clearDone b).pending = b.pending := rfl
@[simp] theorem clearDone_activeLanes : (clearDone b).activeLanes = b.activeLanes := rfl

/-! ### complete -/

@[simp] theorem complete_busy : (complete b).busy = b.busy := rfl
@[simp] theorem complete_done : (complete b).done = true := rfl
@[simp] theorem complete_err : (complete b).err = b.err := rfl
@[simp] theorem complete_ovr : (complete b).ovr = b.ovr := rfl
@[simp] theorem complete_errCode : (complete b).errCode = b.errCode := rfl
@[simp] theorem complete_ie : (complete b).ie = b.ie := rfl
@[simp] theorem complete_dout : (complete b).dout = b.dout := rfl
@[simp] theorem complete_k1 : (complete b).k1 = b.k1 := rfl
@[simp] theorem complete_k2 : (complete b).k2 = b.k2 := rfl
@[simp] theorem complete_pairCnt : (complete b).pairCnt = b.pairCnt := rfl
@[simp] theorem complete_pairP : (complete b).pairP = b.pairP := rfl
@[simp] theorem complete_pairC : (complete b).pairC = b.pairC := rfl
@[simp] theorem complete_matchMap : (complete b).matchMap = b.matchMap := rfl
@[simp] theorem complete_matchCnt : (complete b).matchCnt = b.matchCnt := rfl
@[simp] theorem complete_elapsed : (complete b).elapsed = b.elapsed := rfl
@[simp] theorem complete_ridx : (complete b).ridx = b.ridx := rfl
@[simp] theorem complete_pending : (complete b).pending = b.pending := rfl
@[simp] theorem complete_activeLanes : (complete b).activeLanes = b.activeLanes := rfl

/-! ### dropCommand -/

@[simp] theorem dropCommand_busy : (dropCommand b).busy = b.busy := rfl
@[simp] theorem dropCommand_done : (dropCommand b).done = b.done := rfl
@[simp] theorem dropCommand_err : (dropCommand b).err = b.err := rfl
@[simp] theorem dropCommand_ovr : (dropCommand b).ovr = true := rfl
@[simp] theorem dropCommand_errCode : (dropCommand b).errCode = b.errCode := rfl
@[simp] theorem dropCommand_ie : (dropCommand b).ie = b.ie := rfl
@[simp] theorem dropCommand_dout : (dropCommand b).dout = b.dout := rfl
@[simp] theorem dropCommand_k1 : (dropCommand b).k1 = b.k1 := rfl
@[simp] theorem dropCommand_k2 : (dropCommand b).k2 = b.k2 := rfl
@[simp] theorem dropCommand_pairCnt : (dropCommand b).pairCnt = b.pairCnt := rfl
@[simp] theorem dropCommand_pairP : (dropCommand b).pairP = b.pairP := rfl
@[simp] theorem dropCommand_pairC : (dropCommand b).pairC = b.pairC := rfl
@[simp] theorem dropCommand_matchMap : (dropCommand b).matchMap = b.matchMap := rfl
@[simp] theorem dropCommand_matchCnt : (dropCommand b).matchCnt = b.matchCnt := rfl
@[simp] theorem dropCommand_elapsed : (dropCommand b).elapsed = b.elapsed := rfl
@[simp] theorem dropCommand_ridx : (dropCommand b).ridx = b.ridx := rfl
@[simp] theorem dropCommand_pending : (dropCommand b).pending = b.pending := rfl
@[simp] theorem dropCommand_activeLanes : (dropCommand b).activeLanes = b.activeLanes := rfl

/-! ### writeStatus -/

@[simp] theorem writeStatus_busy (w : Word) : (writeStatus w b).busy = b.busy := rfl
@[simp] theorem writeStatus_done (w : Word) : (writeStatus w b).done = (b.done && !w.getLsbD 1) := rfl
@[simp] theorem writeStatus_err (w : Word) : (writeStatus w b).err = (b.err && !w.getLsbD 2) := rfl
@[simp] theorem writeStatus_ovr (w : Word) : (writeStatus w b).ovr = (b.ovr && !w.getLsbD 3) := rfl
@[simp] theorem writeStatus_errCode (w : Word) : (writeStatus w b).errCode = (if w.getLsbD 2 then 0 else b.errCode) := rfl
@[simp] theorem writeStatus_ie (w : Word) : (writeStatus w b).ie = b.ie := rfl
@[simp] theorem writeStatus_dout (w : Word) : (writeStatus w b).dout = b.dout := rfl
@[simp] theorem writeStatus_k1 (w : Word) : (writeStatus w b).k1 = b.k1 := rfl
@[simp] theorem writeStatus_k2 (w : Word) : (writeStatus w b).k2 = b.k2 := rfl
@[simp] theorem writeStatus_pairCnt (w : Word) : (writeStatus w b).pairCnt = b.pairCnt := rfl
@[simp] theorem writeStatus_pairP (w : Word) : (writeStatus w b).pairP = b.pairP := rfl
@[simp] theorem writeStatus_pairC (w : Word) : (writeStatus w b).pairC = b.pairC := rfl
@[simp] theorem writeStatus_matchMap (w : Word) : (writeStatus w b).matchMap = b.matchMap := rfl
@[simp] theorem writeStatus_matchCnt (w : Word) : (writeStatus w b).matchCnt = b.matchCnt := rfl
@[simp] theorem writeStatus_elapsed (w : Word) : (writeStatus w b).elapsed = b.elapsed := rfl
@[simp] theorem writeStatus_ridx (w : Word) : (writeStatus w b).ridx = b.ridx := rfl
@[simp] theorem writeStatus_pending (w : Word) : (writeStatus w b).pending = b.pending := rfl
@[simp] theorem writeStatus_activeLanes (w : Word) : (writeStatus w b).activeLanes = b.activeLanes := rfl

/-! ### writeDout -/

@[simp] theorem writeDout_busy {n : Nat} (v : BitVec n) : (writeDout v b).busy = b.busy := rfl
@[simp] theorem writeDout_done {n : Nat} (v : BitVec n) : (writeDout v b).done = b.done := rfl
@[simp] theorem writeDout_err {n : Nat} (v : BitVec n) : (writeDout v b).err = b.err := rfl
@[simp] theorem writeDout_ovr {n : Nat} (v : BitVec n) : (writeDout v b).ovr = b.ovr := rfl
@[simp] theorem writeDout_errCode {n : Nat} (v : BitVec n) : (writeDout v b).errCode = b.errCode := rfl
@[simp] theorem writeDout_ie {n : Nat} (v : BitVec n) : (writeDout v b).ie = b.ie := rfl
@[simp] theorem writeDout_dout {n : Nat} (v : BitVec n) : (writeDout v b).dout = v.setWidth 10 := rfl
@[simp] theorem writeDout_k1 {n : Nat} (v : BitVec n) : (writeDout v b).k1 = b.k1 := rfl
@[simp] theorem writeDout_k2 {n : Nat} (v : BitVec n) : (writeDout v b).k2 = b.k2 := rfl
@[simp] theorem writeDout_pairCnt {n : Nat} (v : BitVec n) : (writeDout v b).pairCnt = b.pairCnt := rfl
@[simp] theorem writeDout_pairP {n : Nat} (v : BitVec n) : (writeDout v b).pairP = b.pairP := rfl
@[simp] theorem writeDout_pairC {n : Nat} (v : BitVec n) : (writeDout v b).pairC = b.pairC := rfl
@[simp] theorem writeDout_matchMap {n : Nat} (v : BitVec n) : (writeDout v b).matchMap = b.matchMap := rfl
@[simp] theorem writeDout_matchCnt {n : Nat} (v : BitVec n) : (writeDout v b).matchCnt = b.matchCnt := rfl
@[simp] theorem writeDout_elapsed {n : Nat} (v : BitVec n) : (writeDout v b).elapsed = b.elapsed := rfl
@[simp] theorem writeDout_ridx {n : Nat} (v : BitVec n) : (writeDout v b).ridx = b.ridx := rfl
@[simp] theorem writeDout_pending {n : Nat} (v : BitVec n) : (writeDout v b).pending = b.pending := rfl
@[simp] theorem writeDout_activeLanes {n : Nat} (v : BitVec n) : (writeDout v b).activeLanes = b.activeLanes := rfl

/-! ### writeSubkeys -/

@[simp] theorem writeSubkeys_busy (ks : Byte × Byte) : (writeSubkeys ks b).busy = b.busy := rfl
@[simp] theorem writeSubkeys_done (ks : Byte × Byte) : (writeSubkeys ks b).done = b.done := rfl
@[simp] theorem writeSubkeys_err (ks : Byte × Byte) : (writeSubkeys ks b).err = b.err := rfl
@[simp] theorem writeSubkeys_ovr (ks : Byte × Byte) : (writeSubkeys ks b).ovr = b.ovr := rfl
@[simp] theorem writeSubkeys_errCode (ks : Byte × Byte) : (writeSubkeys ks b).errCode = b.errCode := rfl
@[simp] theorem writeSubkeys_ie (ks : Byte × Byte) : (writeSubkeys ks b).ie = b.ie := rfl
@[simp] theorem writeSubkeys_dout (ks : Byte × Byte) : (writeSubkeys ks b).dout = b.dout := rfl
@[simp] theorem writeSubkeys_k1 (ks : Byte × Byte) : (writeSubkeys ks b).k1 = ks.1 := rfl
@[simp] theorem writeSubkeys_k2 (ks : Byte × Byte) : (writeSubkeys ks b).k2 = ks.2 := rfl
@[simp] theorem writeSubkeys_pairCnt (ks : Byte × Byte) : (writeSubkeys ks b).pairCnt = b.pairCnt := rfl
@[simp] theorem writeSubkeys_pairP (ks : Byte × Byte) : (writeSubkeys ks b).pairP = b.pairP := rfl
@[simp] theorem writeSubkeys_pairC (ks : Byte × Byte) : (writeSubkeys ks b).pairC = b.pairC := rfl
@[simp] theorem writeSubkeys_matchMap (ks : Byte × Byte) : (writeSubkeys ks b).matchMap = b.matchMap := rfl
@[simp] theorem writeSubkeys_matchCnt (ks : Byte × Byte) : (writeSubkeys ks b).matchCnt = b.matchCnt := rfl
@[simp] theorem writeSubkeys_elapsed (ks : Byte × Byte) : (writeSubkeys ks b).elapsed = b.elapsed := rfl
@[simp] theorem writeSubkeys_ridx (ks : Byte × Byte) : (writeSubkeys ks b).ridx = b.ridx := rfl
@[simp] theorem writeSubkeys_pending (ks : Byte × Byte) : (writeSubkeys ks b).pending = b.pending := rfl
@[simp] theorem writeSubkeys_activeLanes (ks : Byte × Byte) : (writeSubkeys ks b).activeLanes = b.activeLanes := rfl

/-! ### clearPairs -/

@[simp] theorem clearPairs_busy (p : Params) : (clearPairs p b).busy = b.busy := rfl
@[simp] theorem clearPairs_done (p : Params) : (clearPairs p b).done = b.done := rfl
@[simp] theorem clearPairs_err (p : Params) : (clearPairs p b).err = b.err := rfl
@[simp] theorem clearPairs_ovr (p : Params) : (clearPairs p b).ovr = b.ovr := rfl
@[simp] theorem clearPairs_errCode (p : Params) : (clearPairs p b).errCode = b.errCode := rfl
@[simp] theorem clearPairs_ie (p : Params) : (clearPairs p b).ie = b.ie := rfl
@[simp] theorem clearPairs_dout (p : Params) : (clearPairs p b).dout = b.dout := rfl
@[simp] theorem clearPairs_k1 (p : Params) : (clearPairs p b).k1 = b.k1 := rfl
@[simp] theorem clearPairs_k2 (p : Params) : (clearPairs p b).k2 = b.k2 := rfl
@[simp] theorem clearPairs_pairCnt (p : Params) : (clearPairs p b).pairCnt = 0 := rfl
@[simp] theorem clearPairs_pairP (p : Params) : (clearPairs p b).pairP = List.replicate p.maxPairs 0 := rfl
@[simp] theorem clearPairs_pairC (p : Params) : (clearPairs p b).pairC = List.replicate p.maxPairs 0 := rfl
@[simp] theorem clearPairs_matchMap (p : Params) : (clearPairs p b).matchMap = b.matchMap := rfl
@[simp] theorem clearPairs_matchCnt (p : Params) : (clearPairs p b).matchCnt = b.matchCnt := rfl
@[simp] theorem clearPairs_elapsed (p : Params) : (clearPairs p b).elapsed = b.elapsed := rfl
@[simp] theorem clearPairs_ridx (p : Params) : (clearPairs p b).ridx = b.ridx := rfl
@[simp] theorem clearPairs_pending (p : Params) : (clearPairs p b).pending = b.pending := rfl
@[simp] theorem clearPairs_activeLanes (p : Params) : (clearPairs p b).activeLanes = b.activeLanes := rfl

/-! ### appendPair -/

@[simp] theorem appendPair_busy (pt ct : Byte) : (appendPair pt ct b).busy = b.busy := rfl
@[simp] theorem appendPair_done (pt ct : Byte) : (appendPair pt ct b).done = b.done := rfl
@[simp] theorem appendPair_err (pt ct : Byte) : (appendPair pt ct b).err = b.err := rfl
@[simp] theorem appendPair_ovr (pt ct : Byte) : (appendPair pt ct b).ovr = b.ovr := rfl
@[simp] theorem appendPair_errCode (pt ct : Byte) : (appendPair pt ct b).errCode = b.errCode := rfl
@[simp] theorem appendPair_ie (pt ct : Byte) : (appendPair pt ct b).ie = b.ie := rfl
@[simp] theorem appendPair_dout (pt ct : Byte) : (appendPair pt ct b).dout = b.dout := rfl
@[simp] theorem appendPair_k1 (pt ct : Byte) : (appendPair pt ct b).k1 = b.k1 := rfl
@[simp] theorem appendPair_k2 (pt ct : Byte) : (appendPair pt ct b).k2 = b.k2 := rfl
@[simp] theorem appendPair_pairCnt (pt ct : Byte) : (appendPair pt ct b).pairCnt = b.pairCnt + 1 := rfl
@[simp] theorem appendPair_pairP (pt ct : Byte) : (appendPair pt ct b).pairP = b.pairP.set b.pairCnt.toNat pt := rfl
@[simp] theorem appendPair_pairC (pt ct : Byte) : (appendPair pt ct b).pairC = b.pairC.set b.pairCnt.toNat ct := rfl
@[simp] theorem appendPair_matchMap (pt ct : Byte) : (appendPair pt ct b).matchMap = b.matchMap := rfl
@[simp] theorem appendPair_matchCnt (pt ct : Byte) : (appendPair pt ct b).matchCnt = b.matchCnt := rfl
@[simp] theorem appendPair_elapsed (pt ct : Byte) : (appendPair pt ct b).elapsed = b.elapsed := rfl
@[simp] theorem appendPair_ridx (pt ct : Byte) : (appendPair pt ct b).ridx = b.ridx := rfl
@[simp] theorem appendPair_pending (pt ct : Byte) : (appendPair pt ct b).pending = b.pending := rfl
@[simp] theorem appendPair_activeLanes (pt ct : Byte) : (appendPair pt ct b).activeLanes = b.activeLanes := rfl

/-! ### startSearch -/

@[simp] theorem startSearch_busy (lanes : Nat) : (startSearch lanes b).busy = true := rfl
@[simp] theorem startSearch_done (lanes : Nat) : (startSearch lanes b).done = b.done := rfl
@[simp] theorem startSearch_err (lanes : Nat) : (startSearch lanes b).err = b.err := rfl
@[simp] theorem startSearch_ovr (lanes : Nat) : (startSearch lanes b).ovr = b.ovr := rfl
@[simp] theorem startSearch_errCode (lanes : Nat) : (startSearch lanes b).errCode = b.errCode := rfl
@[simp] theorem startSearch_ie (lanes : Nat) : (startSearch lanes b).ie = b.ie := rfl
@[simp] theorem startSearch_dout (lanes : Nat) : (startSearch lanes b).dout = b.dout := rfl
@[simp] theorem startSearch_k1 (lanes : Nat) : (startSearch lanes b).k1 = b.k1 := rfl
@[simp] theorem startSearch_k2 (lanes : Nat) : (startSearch lanes b).k2 = b.k2 := rfl
@[simp] theorem startSearch_pairCnt (lanes : Nat) : (startSearch lanes b).pairCnt = b.pairCnt := rfl
@[simp] theorem startSearch_pairP (lanes : Nat) : (startSearch lanes b).pairP = b.pairP := rfl
@[simp] theorem startSearch_pairC (lanes : Nat) : (startSearch lanes b).pairC = b.pairC := rfl
@[simp] theorem startSearch_matchMap (lanes : Nat) : (startSearch lanes b).matchMap = 0#1024 := rfl
@[simp] theorem startSearch_matchCnt (lanes : Nat) : (startSearch lanes b).matchCnt = b.matchCnt := rfl
@[simp] theorem startSearch_elapsed (lanes : Nat) : (startSearch lanes b).elapsed = b.elapsed := rfl
@[simp] theorem startSearch_ridx (lanes : Nat) : (startSearch lanes b).ridx = b.ridx := rfl
@[simp] theorem startSearch_pending (lanes : Nat) : (startSearch lanes b).pending = allKeys := by simp only [startSearch]
@[simp] theorem startSearch_activeLanes (lanes : Nat) : (startSearch lanes b).activeLanes = lanes := rfl

/-! ### checkKey -/

@[simp] theorem checkKey_busy (t : Tables) (k : Key) : (checkKey t k b).busy = b.busy := rfl
@[simp] theorem checkKey_done (t : Tables) (k : Key) : (checkKey t k b).done = b.done := rfl
@[simp] theorem checkKey_err (t : Tables) (k : Key) : (checkKey t k b).err = b.err := rfl
@[simp] theorem checkKey_ovr (t : Tables) (k : Key) : (checkKey t k b).ovr = b.ovr := rfl
@[simp] theorem checkKey_errCode (t : Tables) (k : Key) : (checkKey t k b).errCode = b.errCode := rfl
@[simp] theorem checkKey_ie (t : Tables) (k : Key) : (checkKey t k b).ie = b.ie := rfl
@[simp] theorem checkKey_dout (t : Tables) (k : Key) : (checkKey t k b).dout = b.dout := rfl
@[simp] theorem checkKey_k1 (t : Tables) (k : Key) : (checkKey t k b).k1 = b.k1 := rfl
@[simp] theorem checkKey_k2 (t : Tables) (k : Key) : (checkKey t k b).k2 = b.k2 := rfl
@[simp] theorem checkKey_pairCnt (t : Tables) (k : Key) : (checkKey t k b).pairCnt = b.pairCnt := rfl
@[simp] theorem checkKey_pairP (t : Tables) (k : Key) : (checkKey t k b).pairP = b.pairP := rfl
@[simp] theorem checkKey_pairC (t : Tables) (k : Key) : (checkKey t k b).pairC = b.pairC := rfl
@[simp] theorem checkKey_matchMap (t : Tables) (k : Key) : (checkKey t k b).matchMap = setMatch b.matchMap k (candidate t b k) := rfl
@[simp] theorem checkKey_matchCnt (t : Tables) (k : Key) : (checkKey t k b).matchCnt = b.matchCnt := rfl
@[simp] theorem checkKey_elapsed (t : Tables) (k : Key) : (checkKey t k b).elapsed = b.elapsed := rfl
@[simp] theorem checkKey_ridx (t : Tables) (k : Key) : (checkKey t k b).ridx = b.ridx := rfl
@[simp] theorem checkKey_pending (t : Tables) (k : Key) : (checkKey t k b).pending = b.pending.erase k := rfl
@[simp] theorem checkKey_activeLanes (t : Tables) (k : Key) : (checkKey t k b).activeLanes = b.activeLanes := rfl

/-! ### joinStep -/

@[simp] theorem joinStep_busy (e : Word) : (joinStep e b).busy = false := rfl
@[simp] theorem joinStep_done (e : Word) : (joinStep e b).done = true := rfl
@[simp] theorem joinStep_err (e : Word) : (joinStep e b).err = b.err := rfl
@[simp] theorem joinStep_ovr (e : Word) : (joinStep e b).ovr = b.ovr := rfl
@[simp] theorem joinStep_errCode (e : Word) : (joinStep e b).errCode = b.errCode := rfl
@[simp] theorem joinStep_ie (e : Word) : (joinStep e b).ie = b.ie := rfl
@[simp] theorem joinStep_dout (e : Word) : (joinStep e b).dout = b.dout := rfl
@[simp] theorem joinStep_k1 (e : Word) : (joinStep e b).k1 = b.k1 := rfl
@[simp] theorem joinStep_k2 (e : Word) : (joinStep e b).k2 = b.k2 := rfl
@[simp] theorem joinStep_pairCnt (e : Word) : (joinStep e b).pairCnt = b.pairCnt := rfl
@[simp] theorem joinStep_pairP (e : Word) : (joinStep e b).pairP = b.pairP := rfl
@[simp] theorem joinStep_pairC (e : Word) : (joinStep e b).pairC = b.pairC := rfl
@[simp] theorem joinStep_matchMap (e : Word) : (joinStep e b).matchMap = b.matchMap := rfl
@[simp] theorem joinStep_matchCnt (e : Word) : (joinStep e b).matchCnt = BitVec.ofNat 11 (matchCount b.matchMap) := rfl
@[simp] theorem joinStep_elapsed (e : Word) : (joinStep e b).elapsed = e := rfl
@[simp] theorem joinStep_ridx (e : Word) : (joinStep e b).ridx = b.ridx := rfl
@[simp] theorem joinStep_pending (e : Word) : (joinStep e b).pending = b.pending := rfl
@[simp] theorem joinStep_activeLanes (e : Word) : (joinStep e b).activeLanes = b.activeLanes := rfl

/-! ### raiseCmdError -/

@[simp] theorem raiseCmdError_busy (e : ErrorKind) : (raiseCmdError e b).busy = b.busy := rfl
@[simp] theorem raiseCmdError_done (e : ErrorKind) : (raiseCmdError e b).done = true := rfl
@[simp] theorem raiseCmdError_err (e : ErrorKind) : (raiseCmdError e b).err = true := rfl
@[simp] theorem raiseCmdError_ovr (e : ErrorKind) : (raiseCmdError e b).ovr = b.ovr := rfl
@[simp] theorem raiseCmdError_errCode (e : ErrorKind) : (raiseCmdError e b).errCode = e.code := rfl
@[simp] theorem raiseCmdError_ie (e : ErrorKind) : (raiseCmdError e b).ie = b.ie := rfl
@[simp] theorem raiseCmdError_dout (e : ErrorKind) : (raiseCmdError e b).dout = b.dout := rfl
@[simp] theorem raiseCmdError_k1 (e : ErrorKind) : (raiseCmdError e b).k1 = b.k1 := rfl
@[simp] theorem raiseCmdError_k2 (e : ErrorKind) : (raiseCmdError e b).k2 = b.k2 := rfl
@[simp] theorem raiseCmdError_pairCnt (e : ErrorKind) : (raiseCmdError e b).pairCnt = b.pairCnt := rfl
@[simp] theorem raiseCmdError_pairP (e : ErrorKind) : (raiseCmdError e b).pairP = b.pairP := rfl
@[simp] theorem raiseCmdError_pairC (e : ErrorKind) : (raiseCmdError e b).pairC = b.pairC := rfl
@[simp] theorem raiseCmdError_matchMap (e : ErrorKind) : (raiseCmdError e b).matchMap = b.matchMap := rfl
@[simp] theorem raiseCmdError_matchCnt (e : ErrorKind) : (raiseCmdError e b).matchCnt = b.matchCnt := rfl
@[simp] theorem raiseCmdError_elapsed (e : ErrorKind) : (raiseCmdError e b).elapsed = b.elapsed := rfl
@[simp] theorem raiseCmdError_ridx (e : ErrorKind) : (raiseCmdError e b).ridx = b.ridx := rfl
@[simp] theorem raiseCmdError_pending (e : ErrorKind) : (raiseCmdError e b).pending = b.pending := rfl
@[simp] theorem raiseCmdError_activeLanes (e : ErrorKind) : (raiseCmdError e b).activeLanes = b.activeLanes := rfl

end

/-! ### Updates of the whole state -/

section
variable (s : State)

@[simp] theorem laneMove_cfg (c : Nat) : (laneMove c s).cfg = s.cfg := rfl
@[simp] theorem laneMove_block (c : Nat) : (laneMove c s).block = laneStep s.cfg.tables c s.block := rfl
@[simp] theorem laneMove_host (c : Nat) : (laneMove c s).host = s.host := rfl
@[simp] theorem laneMove_turns (c : Nat) : (laneMove c s).turns = s.turns := rfl
@[simp] theorem laneMove_draws (c : Nat) : (laneMove c s).draws = s.draws := rfl
@[simp] theorem joinMove_cfg : (joinMove s).cfg = s.cfg := rfl
@[simp] theorem joinMove_block : (joinMove s).block = joinStep (Config.draw s.draws) s.block := rfl
@[simp] theorem joinMove_host : (joinMove s).host = s.host := rfl
@[simp] theorem joinMove_turns : (joinMove s).turns = s.turns := rfl
@[simp] theorem joinMove_draws : (joinMove s).draws = s.draws + 1 := rfl
@[simp] theorem resetMove_cfg : (resetMove s).cfg = s.cfg := rfl
@[simp] theorem resetMove_block : (resetMove s).block = Block.reset s.cfg := rfl
@[simp] theorem resetMove_host : (resetMove s).host = s.host := rfl
@[simp] theorem resetMove_turns : (resetMove s).turns = s.turns := rfl
@[simp] theorem resetMove_draws : (resetMove s).draws = s.draws := rfl
@[simp] theorem record_cfg (a : BusAccess) (r : BusResponse) : (record a r s).cfg = s.cfg := rfl
@[simp] theorem record_block (a : BusAccess) (r : BusResponse) : (record a r s).block = s.block := rfl
@[simp] theorem record_host (a : BusAccess) (r : BusResponse) : (record a r s).host = ⟨s.host.prog, (a, r) :: s.host.trace⟩ := rfl
@[simp] theorem record_turns (a : BusAccess) (r : BusResponse) : (record a r s).turns = s.turns := rfl
@[simp] theorem record_draws (a : BusAccess) (r : BusResponse) : (record a r s).draws = s.draws := rfl
@[simp] theorem pushLines_cfg (ls : List HostLine) : (pushLines ls s).cfg = s.cfg := rfl
@[simp] theorem pushLines_block (ls : List HostLine) : (pushLines ls s).block = s.block := rfl
@[simp] theorem pushLines_host (ls : List HostLine) : (pushLines ls s).host = ⟨ls ++ s.host.prog, s.host.trace⟩ := rfl
@[simp] theorem pushLines_turns (ls : List HostLine) : (pushLines ls s).turns = s.turns := rfl
@[simp] theorem pushLines_draws (ls : List HostLine) : (pushLines ls s).draws = s.draws := rfl
@[simp] theorem drawWord_cfg : (drawWord s).2.cfg = s.cfg := rfl
@[simp] theorem drawWord_block : (drawWord s).2.block = s.block := rfl
@[simp] theorem drawWord_host : (drawWord s).2.host = s.host := rfl
@[simp] theorem drawWord_turns : (drawWord s).2.turns = s.turns := rfl
@[simp] theorem drawWord_draws : (drawWord s).2.draws = s.draws + 1 := rfl
@[simp] theorem drawWord_value : (drawWord s).1 = Config.draw s.draws := rfl

end

end Sys2Proof.Machine
end

