-- ==== Sys2Proof/Laws/Commands.lean ====
section
/-! SUPPORT. What the command cycle can do, said once: a command is dropped, or it fails with its first error,
or its effect happens. -/

namespace Sys2Proof.Machine

/-- `exec` is an `offer` of some execute step: the one shape every command has. -/
theorem exec_eq_offer (i : Instr) (s : State) :
    ∃ f : Block → Except ErrorKind Block, exec i s = offer f s := by
  cases i <;> exact ⟨_, rfl⟩

theorem offer_busy (f : Block → Except ErrorKind Block) {s : State} (h : s.block.busy = true) :
    offer f s = .next { s with block := dropCommand s.block } := by
  simp [offer, h]

theorem offer_idle (f : Block → Except ErrorKind Block) {s : State} (h : s.block.busy = false) :
    offer f s = .next { s with block := accept f s.block } := by
  simp [offer, h]

theorem accept_ok {f : Block → Except ErrorKind Block} {b b' : Block} (h : f (clearDone b) = .ok b') :
    accept f b = b' := by
  simp [accept, h]

theorem accept_error {f : Block → Except ErrorKind Block} {b : Block} {e : ErrorKind}
    (h : f (clearDone b) = .error e) : accept f b = raiseCmdError e (clearDone b) := by
  simp [accept, h]

/-- Clearing DONE first makes no difference to a failure: rule R104 sets it. -/
@[simp] theorem raiseCmdError_clearDone (e : ErrorKind) (b : Block) :
    raiseCmdError e (clearDone b) = raiseCmdError e b := rfl

/-- A command word always gives a next state (no fault, no refusal), and it changes the block alone. -/
theorem exec_next (i : Instr) (s : State) : ∃ b, exec i s = .next { s with block := b } := by
  obtain ⟨f, hf⟩ := exec_eq_offer i s
  exact ⟨_, hf⟩

/-- The same of every word written to CMD. -/
theorem writeCmd_next (w : Word) (s : State) : ∃ b, writeCmd w s = .next { s with block := b } := by
  unfold writeCmd
  split
  · exact exec_next _ _
  · exact ⟨_, rfl⟩

/-! ### The operand-width check -/

theorem widthChecked_ok {n : Nat} {val : BitVec 10} (h : val >>> n = 0) :
    widthChecked n val = .ok (val.setWidth n) := if_pos h

theorem widthChecked_error {n : Nat} {val : BitVec 10} (h : val >>> n ≠ 0) :
    widthChecked n val = .error .invalidBlockLength := if_neg h

/-- A value that fits its operand's width is below 2^width. -/
theorem shiftRight_eq_zero_iff (val : BitVec 10) (n : Nat) : val >>> n = 0 ↔ val.toNat < 2 ^ n := by
  rw [← BitVec.toNat_inj]
  simp [BitVec.toNat_ushiftRight, Nat.shiftRight_eq_div_pow, Nat.div_eq_zero_iff]

end Sys2Proof.Machine
end

