-- ==== Sys2Proof/Laws/Bus.lean ====
section
/-! SUPPORT. What a bus access can do, said once: reads change at most the count of draws, and every access
changes at most the block, the count of draws and the trace. -/

namespace Sys2Proof.Machine

/-- The whole state but the count of draws is as before a read. -/
theorem searchResult_state (v : Word) (s : State) :
    (searchResult v s).2 = if s.block.busy then { s with draws := s.draws + 1 } else s := by
  unfold searchResult
  split <;> rfl

theorem readRkey_state (s : State) : ∃ n, (readRkey s).2 = { s with draws := n } := by
  unfold readRkey
  split
  · split
    · exact ⟨s.draws, rfl⟩
    · exact ⟨s.draws + 1, rfl⟩
  · exact ⟨s.draws, rfl⟩

/-- A read changes nothing but the count of draws (rule R43). -/
theorem readReg_state (r : Reg) (s : State) : ∃ n, (readReg r s).2 = { s with draws := n } := by
  have hs : ∀ v, ∃ n, (searchResult v s).2 = { s with draws := n } := by
    intro v
    rw [searchResult_state]
    split
    · exact ⟨_, rfl⟩
    · exact ⟨s.draws, rfl⟩
  cases r with
  | matchcnt => exact hs _
  | elapsed => exact hs _
  | matchmap w => exact hs _
  | rkey =>
    simp only [readReg]
    split
    · exact ⟨_, rfl⟩
    · exact readRkey_state s
  | _ => exact ⟨s.draws, rfl⟩

/-- A write of a register always gives a next state, and it changes the block alone. -/
theorem writeReg_next (r : Reg) (w : Word) (s : State) :
    ∃ b, writeReg r w s = .next { s with block := b } := by
  cases r with
  | cmd => exact writeCmd_next w s
  | _ => exact ⟨_, rfl⟩

/-- Every access ends in a next state in which the block, the count of draws and the trace alone can have
changed; the trace has one entry more. -/
theorem performAccess_next (a : BusAccess) (s : State) : ∃ b n r,
    performAccess a s =
      .next { s with block := b, draws := n, host := ⟨s.host.prog, (a, r) :: s.host.trace⟩ } := by
  unfold performAccess
  split
  · split
    · exact ⟨s.block, s.draws, _, rfl⟩
    · rename_i r _
      cases a with
      | read addr width =>
        obtain ⟨n, hn⟩ := readReg_state r s
        exact ⟨s.block, n, _, congrArg (fun t => Host.Outcome.next (record _ _ t)) hn⟩
      | write addr width w =>
        obtain ⟨b, hb⟩ := writeReg_next r w s
        exact ⟨b, s.draws, _, congrArg (mapNext _) hb⟩
  · exact ⟨s.block, s.draws, _, rfl⟩

/-- The window holds its registers at their offsets. -/
theorem regAt_offset (r : Reg) : regAt r.offset = some r := by
  have hpair : ∀ i : Fin 64, regAt (Reg.pair i).offset = some (.pair i) := by decide
  have hmap : ∀ w : Fin 32, regAt (Reg.matchmap w).offset = some (.matchmap w) := by decide
  cases r with
  | pair i => exact hpair i
  | matchmap w => exact hmap w
  | _ => rfl

/-- A register's offset lies in the window and is aligned. -/
theorem offset_le (r : Reg) : r.offset ≤ 0x27C := by
  cases r with
  | pair i => have := i.isLt; simp only [Reg.offset]; omega
  | matchmap w => have := w.isLt; simp only [Reg.offset]; omega
  | _ => decide

/-- An aligned word access to a register reaches that register. -/
theorem performAccess_read (r : Reg) (s : State) :
    performAccess (readAccess s.cfg r) s =
      .next (record (readAccess s.cfg r) (.data (readReg r s).1) (readReg r s).2) := by
  have h1 : inWindow s.cfg (readAccess s.cfg r).addr = true := by
    have := offset_le r
    show (decide (s.cfg.base ≤ s.cfg.base + r.offset) &&
      decide (s.cfg.base + r.offset ≤ s.cfg.base + 0xFFF)) = true
    simp
    omega
  have h2 : admitted s.cfg (readAccess s.cfg r) = some r := by
    show regAt (s.cfg.base + r.offset - s.cfg.base) = some r
    rw [Nat.add_sub_cancel_left, regAt_offset]
  unfold performAccess
  rw [if_pos h1, h2]
  rfl

/-- The same of a write. -/
theorem performAccess_write (r : Reg) (v : Word) (s : State) :
    performAccess (writeAccess s.cfg r v) s =
      mapNext (record (writeAccess s.cfg r v) .written) (writeReg r v s) := by
  have h1 : inWindow s.cfg (writeAccess s.cfg r v).addr = true := by
    have := offset_le r
    show (decide (s.cfg.base ≤ s.cfg.base + r.offset) &&
      decide (s.cfg.base + r.offset ≤ s.cfg.base + 0xFFF)) = true
    simp
    omega
  have h2 : admitted s.cfg (writeAccess s.cfg r v) = some r := by
    show regAt (s.cfg.base + r.offset - s.cfg.base) = some r
    rw [Nat.add_sub_cancel_left, regAt_offset]
  unfold performAccess
  rw [if_pos h1, h2]
  rfl

end Sys2Proof.Machine
end

