-- ==== Sys2Proof/Laws/Datapath.lean ====
section
/-! SUPPORT. Laws of the datapath's building blocks: halves and joins of a block, fields placed in a word, and
an operand that fits its width. -/

namespace Sys2Proof.Machine

/-! ### Halves (rule R12) -/

@[simp] theorem rightHalf_cat (x y : BitVec 4) : rightHalf (cat x y 8) = y := by revert x y; decide

@[simp] theorem leftHalf_cat (x y : BitVec 4) : leftHalf (cat x y 8) = x := by revert x y; decide

@[simp] theorem cat_halves (d : Byte) : cat (leftHalf d) (rightHalf d) 8 = d := by revert d; decide

@[simp] theorem swap4_cat (x y : BitVec 4) : swap4 (cat x y 8) = cat y x 8 := by
  rw [swap4, rightHalf_cat, leftHalf_cat]

@[simp] theorem swap4_swap4 (d : Byte) : swap4 (swap4 d) = d := by revert d; decide

/-! ### Fields of a word -/

/-- A field's value at its place is the value times the place's weight. -/
theorem toNat_place {n lo : Nat} (v : BitVec n) (h : n + lo ≤ 32) :
    (place v lo).toNat = v.toNat * 2 ^ lo := by
  have h1 : v.toNat < 2 ^ 32 := lt_of_lt_of_le v.isLt (Nat.pow_le_pow_right (by decide) (by omega))
  have h2 : v.toNat * 2 ^ lo < 2 ^ 32 :=
    calc v.toNat * 2 ^ lo < 2 ^ n * 2 ^ lo := Nat.mul_lt_mul_of_pos_right v.isLt (by positivity)
      _ = 2 ^ (n + lo) := (pow_add ..).symm
      _ ≤ 2 ^ 32 := Nat.pow_le_pow_right (by decide) h
  rw [place, BitVec.toNat_shiftLeft, BitVec.toNat_setWidth, Nat.shiftLeft_eq, Nat.mod_eq_of_lt h1,
    Nat.mod_eq_of_lt h2]

/-- A field above a word that stays below it. -/
theorem toNat_place_or {n lo : Nat} (v : BitVec n) (y : Word) (h : n + lo ≤ 32) (hy : y.toNat < 2 ^ lo) :
    (place v lo ||| y).toNat = v.toNat * 2 ^ lo + y.toNat := by
  rw [BitVec.toNat_or, toNat_place v h, mul_comm, Nat.two_pow_add_eq_or_of_lt hy]

/-- Two bytes in one word, as SUBKEYS and PAIR show them. -/
theorem toNat_two_bytes (hi lo : Byte) : (place hi 8 ||| place lo 0).toNat = 256 * hi.toNat + lo.toNat := by
  have e : (place lo 0).toNat = lo.toNat := by rw [toNat_place _ (by decide), pow_zero, mul_one]
  rw [toNat_place_or _ _ (by decide) (by rw [e]; exact lo.isLt), e]
  omega

/-! ### Operands -/

/-- A value of the operand's own width passes the width check as itself (rule R58). -/
theorem widthChecked_setWidth {n : Nat} (h : n ≤ 10) (v : BitVec n) :
    widthChecked n (v.setWidth 10) = .ok v := by
  have hv := v.isLt
  have e : (v.setWidth 10).toNat = v.toNat := BitVec.toNat_setWidth_of_le h
  rw [widthChecked_ok ((shiftRight_eq_zero_iff _ _).mpr (e ▸ hv))]
  congr 1
  apply BitVec.eq_of_toNat_eq
  rw [BitVec.toNat_setWidth, e, Nat.mod_eq_of_lt hv]

end Sys2Proof.Machine
end

