-- ==== Sys2Proof/Laws/Invariant.lean ====
section
/-! SUPPORT. Each operation on the block keeps the block's invariant: the pair table keeps its canonical form
(zeros above PAIRCNT), SEARCH_PENDING stays a set, the match map and MATCHCNT stay what rules R91 and R92
say. -/

namespace Sys2Proof.Machine

variable {p : Params} {b : Block}

/-- The reset block meets the invariant. -/
theorem reset_blockInv (hp : p.Valid) : (Block.reset p).Inv p where
  pairCnt_le := Nat.zero_le _
  pairP_length := by simp [Block.reset]
  pairC_length := by simp [Block.reset]
  pairs_above_zero i _ := by
    simp only [Block.reset, List.getD_eq_getElem?_getD, List.getElem?_replicate]
    split <;> simp
  errCode_zero_iff := by simp [Block.reset]
  errCode_known := by simp [Block.reset, blockErrCode]
  lanes_range := ⟨Nat.le_refl _, hp.1.1⟩
  idle_nothing_pending _ := rfl
  pending_ascending := List.Pairwise.nil
  busy_not_done h := by simp [Block.reset] at h
  busy_has_pair h := by simp [Block.reset] at h
  busy_match h := by simp [Block.reset] at h
  idle_matchCnt _ := by
    have : matchCount 0#1024 = 0 := matchCount_zero
    simp [Block.reset, this]
  matchCnt_le := by simp [Block.reset]

/-- A change of the flags, of CTRL, of the cipher results, of ELAPSED or of RIDX keeps the invariant, if ERR
and ERRCODE agree and DONE stays 0 while BUSY = 1. -/
theorem blockInv_of_flags {b' : Block} (h : b.Inv p)
    (hbusy : b'.busy = b.busy) (hcnt : b'.pairCnt = b.pairCnt) (hP : b'.pairP = b.pairP)
    (hC : b'.pairC = b.pairC) (hm : b'.matchMap = b.matchMap) (hmc : b'.matchCnt = b.matchCnt)
    (hpen : b'.pending = b.pending) (hl : b'.activeLanes = b.activeLanes)
    (herr : b'.errCode = 0 ↔ b'.err = false) (hknown : blockErrCode b'.errCode = true)
    (hdone : b.busy = true → b'.done = false) : b'.Inv p where
  pairCnt_le := hcnt ▸ h.pairCnt_le
  pairP_length := hP ▸ h.pairP_length
  pairC_length := hC ▸ h.pairC_length
  pairs_above_zero i hi := by rw [hP, hC]; exact h.pairs_above_zero i (hcnt ▸ hi)
  errCode_zero_iff := herr
  errCode_known := hknown
  lanes_range := hl ▸ h.lanes_range
  idle_nothing_pending hb := hpen ▸ h.idle_nothing_pending (hbusy ▸ hb)
  pending_ascending := hpen ▸ h.pending_ascending
  busy_not_done hb := hdone (hbusy ▸ hb)
  busy_has_pair hb := hcnt ▸ h.busy_has_pair (hbusy ▸ hb)
  busy_match hb k := by rw [hm, hpen, hP, hC, hcnt]; exact h.busy_match (hbusy ▸ hb) k
  idle_matchCnt hb := by rw [hm, hmc]; exact h.idle_matchCnt (hbusy ▸ hb)
  matchCnt_le := hmc ▸ h.matchCnt_le

theorem clearDone_inv (h : b.Inv p) : (clearDone b).Inv p :=
  blockInv_of_flags h rfl rfl rfl rfl rfl rfl rfl rfl h.errCode_zero_iff h.errCode_known fun _ => rfl

theorem complete_inv (h : b.Inv p) (hb : b.busy = false) : (complete b).Inv p :=
  blockInv_of_flags h rfl rfl rfl rfl rfl rfl rfl rfl h.errCode_zero_iff h.errCode_known fun hb' =>
    absurd (hb.symm.trans hb') (by decide)

theorem dropCommand_inv (h : b.Inv p) : (dropCommand b).Inv p :=
  blockInv_of_flags h rfl rfl rfl rfl rfl rfl rfl rfl h.errCode_zero_iff h.errCode_known h.busy_not_done

theorem writeStatus_inv (w : Word) (h : b.Inv p) : (writeStatus w b).Inv p := by
  refine blockInv_of_flags h rfl rfl rfl rfl rfl rfl rfl rfl ?_ ?_ ?_
  · simp only [writeStatus]
    cases w.getLsbD 2
    · simpa using h.errCode_zero_iff
    · simp
  · simp only [writeStatus]
    cases w.getLsbD 2
    · simpa using h.errCode_known
    · rfl
  · intro hb
    simp [writeStatus, h.busy_not_done hb]

theorem writeDout_inv {n : Nat} (v : BitVec n) (h : b.Inv p) : (writeDout v b).Inv p :=
  blockInv_of_flags h rfl rfl rfl rfl rfl rfl rfl rfl h.errCode_zero_iff h.errCode_known h.busy_not_done

theorem writeSubkeys_inv (ks : Byte × Byte) (h : b.Inv p) : (writeSubkeys ks b).Inv p :=
  blockInv_of_flags h rfl rfl rfl rfl rfl rfl rfl rfl h.errCode_zero_iff h.errCode_known h.busy_not_done

/-- The kinds that the block raises (rule R103). -/
theorem raiseCmdError_inv {e : ErrorKind} (he : e ≠ .invalidBitString ∧ e ≠ .invalidKeyLength)
    (h : b.Inv p) (hb : b.busy = false) : (raiseCmdError e b).Inv p := by
  refine blockInv_of_flags h rfl rfl rfl rfl rfl rfl rfl rfl ?_ ?_ ?_
  · cases e <;> simp [raiseCmdError, ErrorKind.code]
  · cases e <;> simp_all [raiseCmdError, ErrorKind.code, blockErrCode]
  · intro hb'; exact absurd (hb.symm.trans hb') (by decide)

/-- The pair table's canonical form after PCLR. -/
theorem clearPairs_inv (h : b.Inv p) (hb : b.busy = false) : (clearPairs p b).Inv p where
  pairCnt_le := Nat.zero_le _
  pairP_length := by simp
  pairC_length := by simp
  pairs_above_zero i _ := by
    simp only [clearPairs_pairP, clearPairs_pairC, List.getD_eq_getElem?_getD, List.getElem?_replicate]
    split <;> simp
  errCode_zero_iff := h.errCode_zero_iff
  errCode_known := h.errCode_known
  lanes_range := h.lanes_range
  idle_nothing_pending := h.idle_nothing_pending
  pending_ascending := h.pending_ascending
  busy_not_done := h.busy_not_done
  busy_has_pair hb' := absurd (hb.symm.trans hb') (by decide)
  busy_match hb' := absurd (hb.symm.trans hb') (by decide)
  idle_matchCnt := h.idle_matchCnt
  matchCnt_le := h.matchCnt_le

/-- The pair table's canonical form after PADD on a table that is not full. -/
theorem appendPair_inv (pt ct : Byte) (hp : p.Valid) (h : b.Inv p) (hb : b.busy = false)
    (hfull : pairTableFull p b = false) : (appendPair pt ct b).Inv p := by
  have hlt : b.pairCnt.toNat < p.maxPairs := by
    have h1 := h.pairCnt_le
    have h2 : b.pairCnt.toNat ≠ p.maxPairs := by simpa [pairTableFull] using hfull
    omega
  have hcnt : (b.pairCnt + 1).toNat = b.pairCnt.toNat + 1 := by
    have := hp.2.1.2
    rw [BitVec.toNat_add, show (1 : BitVec 7).toNat = 1 from rfl]
    omega
  constructor
  · simp only [appendPair_pairCnt]; rw [hcnt]; omega
  · simpa using h.pairP_length
  · simpa using h.pairC_length
  · intro i hi
    simp only [appendPair_pairCnt] at hi
    rw [hcnt] at hi
    have hne : b.pairCnt.toNat ≠ i := by omega
    simp only [appendPair_pairP, appendPair_pairC, List.getD_eq_getElem?_getD,
      List.getElem?_set_ne hne]
    simpa [List.getD_eq_getElem?_getD] using h.pairs_above_zero i (by omega)
  · exact h.errCode_zero_iff
  · exact h.errCode_known
  · exact h.lanes_range
  · exact h.idle_nothing_pending
  · exact h.pending_ascending
  · exact h.busy_not_done
  · intro hb'; exact absurd (hb.symm.trans hb') (by decide)
  · intro hb'; exact absurd (hb.symm.trans hb') (by decide)
  · exact h.idle_matchCnt
  · exact h.matchCnt_le

/-- SEARCH's acceptance makes every key pending. -/
theorem startSearch_inv {lanes : Nat} (h : b.Inv p) (hl : 1 ≤ lanes ∧ lanes ≤ p.numLanes)
    (hne : b.pairCnt ≠ 0) (hd : b.done = false) : (startSearch lanes b).Inv p where
  pairCnt_le := h.pairCnt_le
  pairP_length := h.pairP_length
  pairC_length := h.pairC_length
  pairs_above_zero := h.pairs_above_zero
  errCode_zero_iff := h.errCode_zero_iff
  errCode_known := h.errCode_known
  lanes_range := hl
  idle_nothing_pending hb := by simp at hb
  pending_ascending := by simpa using allKeys_ascending
  busy_not_done _ := hd
  busy_has_pair _ := hne
  busy_match _ k := by simp
  idle_matchCnt hb := by simp at hb
  matchCnt_le := h.matchCnt_le

theorem pending_nodup (h : b.Inv p) : b.pending.Nodup :=
  h.pending_ascending.imp fun hlt e => by subst e; exact Nat.lt_irrefl _ hlt

/-- A key check keeps SEARCH_PENDING a set and the match map right. -/
theorem checkKey_inv (k : Key) (h : b.Inv p) (hk : k ∈ b.pending) :
    (checkKey p.tables k b).Inv p where
  pairCnt_le := h.pairCnt_le
  pairP_length := h.pairP_length
  pairC_length := h.pairC_length
  pairs_above_zero := h.pairs_above_zero
  errCode_zero_iff := h.errCode_zero_iff
  errCode_known := h.errCode_known
  lanes_range := h.lanes_range
  idle_nothing_pending hb := by
    simp only [checkKey_busy] at hb
    simp only [checkKey_pending]
    rw [h.idle_nothing_pending hb]
    rfl
  pending_ascending := by
    simp only [checkKey_pending]
    exact h.pending_ascending.sublist List.erase_sublist
  busy_not_done := h.busy_not_done
  busy_has_pair := h.busy_has_pair
  busy_match hb j := by
    simp only [checkKey_busy] at hb
    simp only [checkKey_matchMap, getLsbD_setMatch, checkKey_pending, checkKey_pairP, checkKey_pairC,
      checkKey_pairCnt]
    by_cases hjk : j = k
    · subst hjk
      have : j ∉ b.pending.erase j := fun hmem => ((pending_nodup h).mem_erase_iff.mp hmem).1 rfl
      simp [this, candidate]
    · rw [if_neg hjk, h.busy_match hb j]
      congr 2
      rw [Bool.eq_iff_iff]
      simp [List.mem_erase_of_ne hjk]
  idle_matchCnt hb := by
    simp only [checkKey_busy] at hb
    rw [h.idle_nothing_pending hb] at hk
    cases hk
  matchCnt_le := h.matchCnt_le

/-- The key a choice picks is pending. -/
theorem pickPending_mem {c : Nat} {k : Key} (h : pickPending c b = some k) : k ∈ b.pending :=
  List.mem_of_getElem? h

/-- Some choice picks any given pending key. -/
theorem exists_choice {k : Key} (h : k ∈ b.pending) : ∃ c, pickPending c b = some k := by
  obtain ⟨i, hi, e⟩ := List.mem_iff_getElem.mp h
  exact ⟨i, by rw [pickPending, Nat.mod_eq_of_lt hi, List.getElem?_eq_getElem hi, e]⟩

/-- With keys pending, every choice picks one. -/
theorem pickPending_isSome (c : Nat) (h : b.pending ≠ []) : ∃ k, pickPending c b = some k := by
  have hl : 0 < b.pending.length := List.length_pos_of_ne_nil h
  exact ⟨_, List.getElem?_eq_getElem (Nat.mod_lt _ hl)⟩

/-- What a lane step does, said once. -/
theorem laneStep_cases (t : Tables) (c : Nat) (b : Block) :
    (b.pending = [] ∧ laneStep t c b = b) ∨
    ∃ k, k ∈ b.pending ∧ pickPending c b = some k ∧ laneStep t c b = checkKey t k b := by
  by_cases hp : b.pending = []
  · exact .inl ⟨hp, by simp [laneStep, pickPending, hp]⟩
  · obtain ⟨k, hk⟩ := pickPending_isSome c hp
    exact .inr ⟨k, pickPending_mem hk, hk, by simp [laneStep, hk]⟩

theorem laneStep_inv (c : Nat) (h : b.Inv p) : (laneStep p.tables c b).Inv p := by
  obtain ⟨-, e⟩ | ⟨k, hk, -, e⟩ := laneStep_cases p.tables c b
  · rw [e]; exact h
  · rw [e]; exact checkKey_inv k h hk

/-- The join makes MATCHCNT the number of matches. -/
theorem joinStep_inv (e : Word) (h : b.Inv p) (hpen : b.pending = []) : (joinStep e b).Inv p := by
  have hc : (BitVec.ofNat 11 (matchCount b.matchMap)).toNat = matchCount b.matchMap := by
    have := matchCount_le b.matchMap
    simp only [BitVec.toNat_ofNat]
    omega
  constructor
  · exact h.pairCnt_le
  · exact h.pairP_length
  · exact h.pairC_length
  · exact h.pairs_above_zero
  · exact h.errCode_zero_iff
  · exact h.errCode_known
  · exact h.lanes_range
  · intro _; exact hpen
  · exact h.pending_ascending
  · intro hb; simp at hb
  · intro hb; simp at hb
  · intro hb; simp at hb
  · intro _; exact hc
  · rw [joinStep_matchCnt, hc]; exact matchCount_le _

end Sys2Proof.Machine
end

