-- ==== Sys2Proof/Laws/PerInstr.lean ====
section
/-! SUPPORT. Statements made per instruction. Family EncodedRow: the word that the encoder writes for an
instruction lies in the row of rule R57 that has the instruction's mnemonic. -/

namespace Sys2Proof.Laws.EncodedRow

/-- The encoded word matches the instruction's (mask, match) row. -/
def Statement (i : Instr) : Prop :=
  i.wellFormed = true → (opcodeRow i).matchesWord (encode i) = true

/-- Two words are equal when their 32 bits are. -/
theorem word_ext {x y : Word} (h : ∀ n, n < 32 → x.getLsbD n = y.getLsbD n) : x = y :=
  BitVec.eq_of_getLsbD_eq h

theorem nop : Statement .nop := fun _ => by
  decide

theorem enc (key : Key) (data : Byte) : Statement (.enc key data) := fun _ => by
  simp only [OpcodeRow.matchesWord, opcodeRow, beq_iff_eq, encode, encodeK, place]
  apply word_ext
  intro n hn
  interval_cases n <;> simp

theorem dec (key : Key) (data : Byte) : Statement (.dec key data) := fun _ => by
  simp only [OpcodeRow.matchesWord, opcodeRow, beq_iff_eq, encode, encodeK, place]
  apply word_ext
  intro n hn
  interval_cases n <;> simp

theorem ksched (key : Key) : Statement (.ksched key) := fun _ => by
  simp only [OpcodeRow.matchesWord, opcodeRow, beq_iff_eq, encode, place]
  apply word_ext
  intro n hn
  interval_cases n <;> simp

theorem round (data : Byte) (aux : Byte) : Statement (.round data aux) := fun _ => by
  simp only [OpcodeRow.matchesWord, opcodeRow, beq_iff_eq, encode, encodeR, place]
  apply word_ext
  intro n hn
  interval_cases n <;> simp

theorem permP10 (val : BitVec 10) : Statement (.permP10 val) := fun _ => by
  simp only [OpcodeRow.matchesWord, opcodeRow, beq_iff_eq, encode, encodeU, place]
  apply word_ext
  intro n hn
  interval_cases n <;> simp

theorem permP8 (val : BitVec 10) : Statement (.permP8 val) := fun _ => by
  simp only [OpcodeRow.matchesWord, opcodeRow, beq_iff_eq, encode, encodeU, place]
  apply word_ext
  intro n hn
  interval_cases n <;> simp

theorem permIp (val : BitVec 10) : Statement (.permIp val) := fun _ => by
  simp only [OpcodeRow.matchesWord, opcodeRow, beq_iff_eq, encode, encodeU, place]
  apply word_ext
  intro n hn
  interval_cases n <;> simp

theorem permIpInv (val : BitVec 10) : Statement (.permIpInv val) := fun _ => by
  simp only [OpcodeRow.matchesWord, opcodeRow, beq_iff_eq, encode, encodeU, place]
  apply word_ext
  intro n hn
  interval_cases n <;> simp

theorem permEp (val : BitVec 10) : Statement (.permEp val) := fun _ => by
  simp only [OpcodeRow.matchesWord, opcodeRow, beq_iff_eq, encode, encodeU, place]
  apply word_ext
  intro n hn
  interval_cases n <;> simp

theorem permP4 (val : BitVec 10) : Statement (.permP4 val) := fun _ => by
  simp only [OpcodeRow.matchesWord, opcodeRow, beq_iff_eq, encode, encodeU, place]
  apply word_ext
  intro n hn
  interval_cases n <;> simp

theorem sboxA (val : BitVec 10) : Statement (.sboxA val) := fun _ => by
  simp only [OpcodeRow.matchesWord, opcodeRow, beq_iff_eq, encode, encodeU, place]
  apply word_ext
  intro n hn
  interval_cases n <;> simp

theorem sboxB (val : BitVec 10) : Statement (.sboxB val) := fun _ => by
  simp only [OpcodeRow.matchesWord, opcodeRow, beq_iff_eq, encode, encodeU, place]
  apply word_ext
  intro n hn
  interval_cases n <;> simp

theorem rotl5 (val : BitVec 10) (amount : Nat) : Statement (.rotl5 val amount) := fun _ => by
  simp only [OpcodeRow.matchesWord, opcodeRow, beq_iff_eq, encode, encodeU, place]
  apply word_ext
  intro n hn
  interval_cases n <;> simp

theorem pclr : Statement .pclr := fun _ => by
  decide

theorem padd (p : Byte) (c : Byte) : Statement (.padd p c) := fun _ => by
  simp only [OpcodeRow.matchesWord, opcodeRow, beq_iff_eq, encode, encodeR, place]
  apply word_ext
  intro n hn
  interval_cases n <;> simp

theorem search (workers : Nat) : Statement (.search workers) := fun _ => by
  simp only [OpcodeRow.matchesWord, opcodeRow, beq_iff_eq, encode, place]
  apply word_ext
  intro n hn
  interval_cases n <;> simp

end Sys2Proof.Laws.EncodedRow
end

