-- ==== Sys2Proof/Laws/Step.lean ====
section
/-! SUPPORT. What one step can do, said once: a host turn keeps the parameters and the turns to come; a host
turn while a search runs changes flags, CTRL and RIDX alone; and any step of a running search is a host
turn, a key check, or the join. -/

namespace Sys2Proof.Machine

/-! ### Runs -/

/-- A run's first step. -/
theorem run_succ {n : Nat} {s t : State} (h : step s = .next t) : core.run (n + 1) s = core.run n t := by
  simp only [Host.Core.run]
  rw [show core.step s = .next t from h]

/-- A given host turn performs the host's next line. -/
theorem step_host {s : State} {ts : List Turn} {l : HostLine} {ls : List HostLine}
    (h1 : s.turns = .host :: ts) (h2 : s.host.prog = l :: ls) :
    step s = runLine l { s with turns := ts, host := { s.host with prog := ls } } := by
  obtain ⟨cfg, b, ⟨prog, tr⟩, turns, d⟩ := s
  simp only at h1 h2
  subst h1 h2
  rfl

/-- A reset turn. -/
theorem step_reset {s : State} {ts : List Turn} (h : s.turns = .reset :: ts) :
    step s = .next { s with turns := ts, block := Block.reset s.cfg } := by
  unfold step nextMove
  rw [h]
  rfl

/-! ### The host's turn -/

theorem performAccess_frame {a : BusAccess} {s t : State} (h : performAccess a s = .next t) :
    t.cfg = s.cfg ∧ t.turns = s.turns := by
  obtain ⟨b, n, r, e⟩ := performAccess_next a s
  rw [e] at h
  injection h with h
  subst h
  exact ⟨rfl, rfl⟩

/-- `waitAgain` changes the host's program alone. -/
theorem waitAgain_frame (s : State) :
    (waitAgain s).cfg = s.cfg ∧ (waitAgain s).block = s.block ∧ (waitAgain s).turns = s.turns := by
  unfold waitAgain pushLines
  split <;> (try split) <;> exact ⟨rfl, rfl, rfl⟩

/-- A line of the host is one access, or none; either way it ends in a next state, and what holds of every
access, and of every change to the host alone, holds of the line. -/
theorem runLine_next {P : State → State → Prop} (l : HostLine) (s : State)
    (hacc : ∀ a t, performAccess a s = .next t → P s t)
    (hhost : ∀ t u : State, P s t → u.cfg = t.cfg → u.block = t.block → u.turns = t.turns → P s u)
    (hself : P s s) : ∃ t, runLine l s = .next t ∧ P s t := by
  have acc : ∀ a, ∃ t, performAccess a s = .next t ∧ P s t := fun a => by
    obtain ⟨b, n, r, e⟩ := performAccess_next a s
    exact ⟨_, e, hacc _ _ e⟩
  cases l with
  | cmd i =>
    simp only [runLine]
    split
    · exact acc _
    · exact ⟨s, rfl, hself⟩
  | rd r => exact acc _
  | wr r v => exact acc _
  | bus a => exact acc _
  | waitIdle =>
    obtain ⟨t, ht, hp⟩ := acc (readAccess s.cfg .status)
    obtain ⟨h1, h2, h3⟩ := waitAgain_frame t
    exact ⟨waitAgain t, by simp [runLine, ht, mapNext], hhost t _ hp h1 h2 h3⟩
  | readKeys => exact ⟨_, rfl, hhost s _ hself rfl rfl rfl⟩

/-- The host's turn always ends in a next state, with the parameters and the turns to come as before. -/
theorem hostTurn_next (s : State) :
    ∃ t, hostTurn s = .next t ∧ t.cfg = s.cfg ∧ t.turns = s.turns := by
  unfold hostTurn
  split
  · exact ⟨s, rfl, rfl, rfl⟩
  · exact runLine_next (P := fun s t => t.cfg = s.cfg ∧ t.turns = s.turns) _ _
      (fun _ _ h => performAccess_frame h) (fun _ _ h h1 _ h3 => ⟨h1.trans h.1, h3.trans h.2⟩) ⟨rfl, rfl⟩

/-! ### A running search -/

/-- Everything but the flags DONE, ERR, OVR with ERRCODE, and CTRL, ELAPSED and RIDX, is as before. -/
structure Block.SameSearch (b c : Block) : Prop where
  busy : c.busy = b.busy
  dout : c.dout = b.dout
  k1 : c.k1 = b.k1
  k2 : c.k2 = b.k2
  pairCnt : c.pairCnt = b.pairCnt
  pairP : c.pairP = b.pairP
  pairC : c.pairC = b.pairC
  matchMap : c.matchMap = b.matchMap
  matchCnt : c.matchCnt = b.matchCnt
  pending : c.pending = b.pending
  activeLanes : c.activeLanes = b.activeLanes

theorem Block.SameSearch.refl (b : Block) : b.SameSearch b := by constructor <;> rfl

/-- A word written to CMD while BUSY = 1 is dropped, whatever it spells (rule R106). -/
theorem writeCmd_drops (w : Word) {s : State} (hb : s.block.busy = true) :
    writeCmd w s = .next { s with block := dropCommand s.block } := by
  unfold writeCmd
  split
  · obtain ⟨f, hf⟩ := exec_eq_offer ‹_› s
    rw [hf, offer_busy f hb]
  · exact offer_busy _ hb

theorem writeReg_busy {r : Reg} {w : Word} {s t : State} (hb : s.block.busy = true)
    (h : writeReg r w s = .next t) : s.block.SameSearch t.block := by
  cases r with
  | cmd =>
    rw [show writeReg .cmd w s = writeCmd w s from rfl, writeCmd_drops w hb] at h
    injection h with h
    subst h
    constructor <;> rfl
  | _ =>
    injection h with h
    subst h
    constructor <;> rfl

theorem performAccess_busy {a : BusAccess} {s t : State} (hb : s.block.busy = true)
    (h : performAccess a s = .next t) : s.block.SameSearch t.block := by
  unfold performAccess at h
  split at h
  · split at h
    · injection h with h
      subst h
      exact .refl _
    · rename_i r _
      cases a with
      | read ad wd =>
        obtain ⟨n, hn⟩ := readReg_state r s
        injection h with h
        subst h
        rw [hn]
        exact .refl _
      | write ad wd w =>
        obtain ⟨b, hw⟩ := writeReg_next r w s
        simp only [hw] at h
        injection h with h
        subst h
        exact writeReg_busy (t := { s with block := b }) hb hw
  · injection h with h
    subst h
    exact .refl _

/-- The host can not disturb a running search (rules R91, R95). -/
theorem hostTurn_busy {s t : State} (hb : s.block.busy = true) (h : hostTurn s = .next t) :
    s.block.SameSearch t.block := by
  unfold hostTurn at h
  split at h
  · injection h with h
    subst h
    exact .refl _
  · rename_i l ls _
    obtain ⟨u, hu, hp⟩ := runLine_next (P := fun s t => s.block.busy = true → s.block.SameSearch t.block) l
      { s with host := { s.host with prog := ls } } (fun _ _ h hb => performAccess_busy hb h)
      (fun _ _ hp _ h2 _ hb => h2 ▸ hp hb) (fun _ => .refl _)
    obtain rfl : u = t := Host.Outcome.next.inj (hu.symm.trans h)
    exact hp hb

/-- A step of a running search, no reset being next: the host's turn (or a turn that passes), a key check, or
the join. -/
theorem step_busy_cases {s t : State} (hb : s.block.busy = true) (hr : s.turns.head? ≠ some .reset)
    (h : step s = .next t) :
    s.block.SameSearch t.block ∨ (∃ c, t.block = laneStep s.cfg.tables c s.block) ∨
      (s.block.pending = [] ∧ ∃ e, t.block = joinStep e s.block) := by
  have joined : joinEnabled s.block = true → s.block.pending = [] := fun h => by
    simpa [joinEnabled, hb] using h
  unfold step nextMove at h
  split at h
  · rename_i tn ts hts
    cases tn with
    | host => exact .inl (hostTurn_busy (s := { s with turns := ts }) hb h)
    | lane l c =>
      injection h with h
      subst h
      split
      · exact .inr (.inl ⟨c, rfl⟩)
      · exact .inl (.refl _)
    | join =>
      injection h with h
      subst h
      split
      · exact .inr (.inr ⟨joined ‹_›, _, rfl⟩)
      · exact .inl (.refl _)
    | reset => simp [hts] at hr
  · rw [if_pos hb] at h
    unfold searchMove at h
    split at h
    · injection h with h
      subst h
      exact .inr (.inr ⟨joined ‹_›, _, rfl⟩)
    · split at h
      · injection h with h
        subst h
        exact .inr (.inl ⟨_, rfl⟩)
      · cases h

/-! ### Many key checks -/

/-- `n` key checks, each of the lowest pending key. -/
def laneSteps (t : Tables) : Nat → Block → Block
  | 0, b => b
  | n + 1, b => laneSteps t n (laneStep t 0 b)

theorem laneStep_busy (t : Tables) (c : Nat) (b : Block) : (laneStep t c b).busy = b.busy := by
  obtain ⟨-, e⟩ | ⟨k, -, -, e⟩ := laneStep_cases t c b <;> rw [e]
  exact checkKey_busy ..

/-- A key check takes one key out of SEARCH_PENDING. -/
theorem laneStep_pending_length (t : Tables) (c : Nat) (b : Block) :
    (laneStep t c b).pending.length = b.pending.length - 1 := by
  obtain ⟨h, e⟩ | ⟨k, hk, -, e⟩ := laneStep_cases t c b <;> rw [e]
  · rw [h]; rfl
  · rw [checkKey_pending, List.length_erase_of_mem hk]

theorem laneSteps_busy (t : Tables) (n : Nat) (b : Block) : (laneSteps t n b).busy = b.busy := by
  induction n generalizing b with
  | zero => rfl
  | succ n ih => exact (ih _).trans (laneStep_busy t 0 b)

theorem laneSteps_pending_length (t : Tables) (n : Nat) (b : Block) :
    (laneSteps t n b).pending.length = b.pending.length - n := by
  induction n generalizing b with
  | zero => rfl
  | succ n ih => rw [laneSteps, ih, laneStep_pending_length]; omega

theorem laneSteps_inv {p : Params} (n : Nat) {b : Block} (h : b.Inv p) : (laneSteps p.tables n b).Inv p := by
  induction n generalizing b with
  | zero => exact h
  | succ n ih => exact ih (laneStep_inv 0 h)

end Sys2Proof.Machine
end

