-- ==== Sys2Proof/Tests/Slice0.lean ====
section
/-! SUPPORT. The tests. Expected values come from the spec: the words of rules R57, R64 and R65 written out bit by
bit, and the vectors of 95_test_vectors.md (instantiation A unless a test says B). The theorems named
`witness_…` show that an obligation's hypotheses can be met. -/

namespace Sys2Proof.Tests

set_option Elab.async false

open Sys2Proof.Machine

/-! ### States and readings the tests use -/

/-- The state after the very next step runs the word `w`. -/
def after (w : Nat) (s : State) : State :=
  match step (s.withFetchWord 32 w) with
  | .next t => t
  | .fault _ => s
  | .refused _ => s

/-- What a read of register `r` gives, as a number. -/
def reads (r : Reg) (s : State) : Nat := (readReg r s).1.toNat

/-- The reset state under instantiation B. -/
def resetB : State := { State.reset with cfg := { defaultParams with tables := tablesB, tableSet := 1 } }

/-- A state like the reset state, with another block. -/
def withBlock (b : Block) : State := { State.reset with block := b }

/-- One pair, (0xAA, 0x8D). -/
def onePair : Block := appendPair 0xAA 0x8D (Block.reset defaultParams)

/-- A search of four lanes over that pair, just accepted. -/
@[irreducible] def searching : Block := startSearch 4 onePair

/-- The same with every key checked: the join is enabled. -/
@[irreducible] def scanned : Block := laneSteps tablesA searching.pending.length searching

/-- Parameters with room for one pair, and BASE above 0. -/
def smallParams : Params := { defaultParams with maxPairs := 1, base := 0x1000 }

/-- A full table. -/
def fullState : State := { State.reset with cfg := smallParams, block := appendPair 1 2 (Block.reset smallParams) }

/-- An idle block whose last search matched the key 0x282 alone. -/
def oneMatch : Block := { onePair with matchMap := 1#1024 <<< 642, matchCnt := 1 }

/-! ### Well-formedness: each check refuses an ill-formed term -/

theorem test_rotation_amount_16_is_ill_formed : (Instr.rotl5 0x16 16).wellFormed = false := by decide
theorem test_rotation_amount_15_is_well_formed : (Instr.rotl5 0x16 15).wellFormed = true := by decide
theorem test_worker_count_0_is_ill_formed : (Instr.search 0).wellFormed = false := by decide
theorem test_worker_count_17_is_ill_formed : (Instr.search 17).wellFormed = false := by decide
theorem test_worker_counts_1_and_16_are_well_formed :
    (Instr.search 1).wellFormed = true ∧ (Instr.search 16).wellFormed = true := by decide
theorem test_an_ill_formed_command_line_makes_no_access :
    runLine (.cmd (.search 0)) State.reset = .next State.reset := rfl

/-! ### Decoding: words written out bit by bit from rules R55 to R57 -/

theorem test_decode_nop : decode 0b00000000000000000000000000000000 = .ok .nop := by decide
theorem test_decode_enc : decode 0b00010010100000100000000010101010 = .ok (.enc 0x282 0xAA) := by decide
theorem test_decode_dec : decode 0b00100010100000100000000010001101 = .ok (.dec 0x282 0x8D) := by decide
theorem test_decode_ksched : decode 0b00110010100000100000000000000000 = .ok (.ksched 0x282) := by decide
theorem test_decode_round : decode 0b01000000000000001010010010101010 = .ok (.round 0xAA 0xA4) := by decide
theorem test_decode_permP10 : decode 0b01010000000000000000001010000010 = .ok (.permP10 0x282) := by decide
theorem test_decode_permP8 : decode 0b01010001000000000000000000111000 = .ok (.permP8 0x038) := by decide
theorem test_decode_permIp : decode 0b01010010000000000000000010101010 = .ok (.permIp 0xAA) := by decide
theorem test_decode_permIpInv : decode 0b01010011000000000000000000110011 = .ok (.permIpInv 0x33) := by decide
theorem test_decode_permEp : decode 0b01010100000000000000000000001010 = .ok (.permEp 0xA) := by decide
theorem test_decode_permP4 : decode 0b01010101000000000000000000001010 = .ok (.permP4 0xA) := by decide
theorem test_decode_sboxA : decode 0b01100000000000000000000000001101 = .ok (.sboxA 0xD) := by decide
theorem test_decode_sboxB : decode 0b01100001000000000000000000001111 = .ok (.sboxB 0xF) := by decide
theorem test_decode_rotl5 : decode 0b01110010000000000000000000010110 = .ok (.rotl5 0x16 2) := by decide
theorem test_decode_pclr : decode 0b10000000000000000000000000000000 = .ok .pclr := by decide
theorem test_decode_padd : decode 0b10010000000000001000110110101010 = .ok (.padd 0xAA 0x8D) := by decide
theorem test_decode_search : decode 0b10100011000000000000000000000000 = .ok (.search 4) := by decide

/-- Rules R58 and R65: reserved opcodes, reserved selectors, reserved bits. -/
theorem test_illegal_words :
    [0xB0000000, 0xF0000000, 0xFFFFFFFF].all (fun w => decode w == .error .reservedOpcode) = true ∧
    [0x56000000, 0x5F000000, 0x62000000, 0x56000100].all (fun w => decode w == .error .reservedSel) = true ∧
    [0x00000001, 0x12820100, 0x16820000, 0x30000001, 0x40010000, 0x50000400].all
      (fun w => decode w == .error .reservedBits) = true ∧
    [0x70800000, 0x80000001, 0x90010000, 0xA0000001].all
      (fun w => decode w == .error .reservedBits) = true := by decide

/-- A PERM or SBOX with too wide a VAL is well-formed (rule R65). -/
theorem test_wide_operands_decode :
    decode 0x52000100 = .ok (.permIp 0x100) ∧ decode 0x60000010 = .ok (.sboxA 0x10) := by decide

theorem test_decodeTableWord : decodeTableWord 32 0xAF000000 = some (.search 16) := by decide
theorem test_decodeTableWord_illegal : decodeTableWord 32 0xB0000000 = none := by decide

/-! ### One command, one step (95_test_vectors.md sections 2.1 to 2.8) -/

theorem test_nop : reads .status (after 0x00000000 State.reset) = 0x02 := by decide +kernel
theorem test_enc :
    let s := after 0x128200AA State.reset
    reads .dout s = 0x8D ∧ reads .subkeys s = 0x43A4 ∧ reads .status s = 0x02 := by decide +kernel
theorem test_enc_B : reads .dout (after 0x12000080 resetB) = 0x02 := by decide +kernel
theorem test_dec :
    let s := after 0x22820038 State.reset
    reads .dout s = 0x97 ∧ reads .subkeys s = 0x43A4 := by decide +kernel
theorem test_dec_B : reads .dout (after 0x22000026 resetB) = 0xCD := by decide +kernel
theorem test_ksched :
    let s := after 0x31FD0000 State.reset
    reads .subkeys s = 0xFC5F ∧ reads .dout s = 0 := by decide +kernel
theorem test_ksched_last_position : reads .subkeys (after 0x30010000 State.reset) = 0x0802 := by decide +kernel
theorem test_round :
    reads .dout (after 0x40004363 State.reset) = 0x23 ∧ reads .dout (after 0x40004363 resetB) = 0xB3 := by
  decide +kernel
theorem test_round_keeps_subkeys : reads .subkeys (after 0x4000A4AA State.reset) = 0 := by decide +kernel
theorem test_permP10 : reads .dout (after 0x500001FD State.reset) = 0x3F3 := by decide +kernel
theorem test_permP8 :
    reads .dout (after 0x510001FD State.reset) = 0x0FE ∧ reads .dout (after 0x51000300 State.reset) = 0 := by
  decide +kernel
theorem test_permIp : reads .dout (after 0x52000097 State.reset) = 0x5D := by decide +kernel
theorem test_permIp_wide :
    let s := after 0x52000100 State.reset
    reads .status s = 0x36 ∧ reads .dout s = 0 := by decide +kernel
theorem test_permIpInv :
    reads .dout (after 0x53000097 State.reset) = 0xCB ∧ reads .status (after 0x53000100 State.reset) = 0x36 := by
  decide +kernel
theorem test_permEp :
    reads .dout (after 0x54000005 State.reset) = 0xAA ∧ reads .status (after 0x54000010 State.reset) = 0x36 := by
  decide +kernel
theorem test_permP4 :
    reads .dout (after 0x55000006 State.reset) = 0x0A ∧ reads .status (after 0x55000010 State.reset) = 0x36 := by
  decide +kernel
theorem test_sboxA :
    reads .dout (after 0x6000000D State.reset) = 0 ∧ reads .dout (after 0x6000000D resetB) = 3 := by decide +kernel
theorem test_sboxB :
    reads .dout (after 0x6100000E State.reset) = 2 ∧ reads .dout (after 0x6100000E resetB) = 0 := by decide +kernel
theorem test_rotl5 :
    reads .dout (after 0x72000016 State.reset) = 0x1A ∧ reads .dout (after 0x7C000016 State.reset) = 0x1A := by
  decide +kernel
theorem test_rotl5_wide : reads .status (after 0x70000020 State.reset) = 0x36 := by decide +kernel
theorem test_pclr :
    let s := after 0x80000000 (withBlock oneMatch)
    reads .paircnt s = 0 ∧ reads (.pair 0) s = 0 ∧ reads .matchcnt s = 1 := by decide +kernel
theorem test_padd :
    let s := after 0x90008DAA State.reset
    reads .paircnt s = 1 ∧ reads (.pair 0) s = 0x8DAA := by decide +kernel
theorem test_padd_full :
    let s := after 0x90008DAA fullState
    reads .status s = 0x66 ∧ reads (.pair 0) s = 0x0201 := by decide +kernel
theorem test_search_starts :
    let s := after 0xAF000000 (withBlock onePair)
    reads .status s = 0x01 ∧ s.block.activeLanes = 4 ∧ s.block.pending.length = 1024 := by decide +kernel
theorem test_search_empty : reads .status (after 0xA3000000 State.reset) = 0x46 := by decide +kernel
theorem test_reserved_opcode : reads .status (after 0xB0000000 State.reset) = 0x56 := by decide +kernel
theorem test_command_while_busy :
    reads .status (after 0x00000000 (withBlock searching)) = 0x09 ∧
    reads .status (after 0xFFFFFFFF (withBlock searching)) = 0x09 := by decide +kernel
theorem test_success_keeps_the_error :
    reads .status (after 0 (withBlock (raiseCmdError .emptyPairSet onePair))) = 0x46 := by decide +kernel

/-! ### The search (section 2.7 row 1, program P2) -/

/-- 642 and 662 are candidates of (0xAA, 0x8D) under A; 662 is not under B; 643 is under neither. -/
theorem test_candidates :
    [642, 662, 714, 734].all (fun k => candidate tablesA onePair (BitVec.ofNat 10 k)) = true ∧
    candidate tablesB onePair 642 = true ∧ candidate tablesB onePair 662 = false ∧
    candidate tablesA onePair 643 = false := by decide +kernel
theorem test_lane_step_checks_its_key :
    let b := laneStep tablesA 642 searching
    b.pending.length = 1023 ∧ b.pending.contains 642 = false ∧ b.matchMap = 1#1024 <<< 642 := by decide +kernel
theorem test_result_registers :
    let s := withBlock { oneMatch with matchMap := oneMatch.matchMap ||| 1#1024 <<< 662, matchCnt := 2, ridx := 1 }
    reads .rkey s = 0x80000296 ∧ reads (.matchmap 20) s = 0x00400004 ∧ reads .matchcnt s = 2 := by decide +kernel
theorem test_rkey_beyond_the_list : reads .rkey (withBlock { oneMatch with ridx := 1 }) = 0 := by decide +kernel

/-! ### Bus and registers (sections 2.8 and 2.9) -/

/-- The block after a register write. -/
def blockAfter (r : Reg) (w : Word) (s : State) : Block :=
  match writeReg r w s with
  | .next t => t.block
  | .fault _ => s.block
  | .refused _ => s.block

/-- The response to one access. -/
def response (a : BusAccess) (s : State) : Option BusResponse :=
  match performAccess a s with
  | .next t => t.host.trace.head?.map Prod.snd
  | .fault _ => none
  | .refused _ => none

theorem test_caps : reads .caps State.reset = 0x1004 ∧ reads .caps resetB = 0x11004 := by decide
theorem test_unmapped_offsets :
    [0x02C, 0x0FC, 0x280, 0xFFC].all (fun a => response (.read a .word) State.reset == some (.error a)) = true := by
  decide
theorem test_narrow_and_unaligned :
    response (.read 4 .byte) State.reset = some (.error 4) ∧ response (.read 4 .half) State.reset = some (.error 4) ∧
    response (.read 6 .word) State.reset = some (.error 6) := by decide
theorem test_outside_the_window : response (.read 0x1000 .word) State.reset = some .notSelected := by decide
theorem test_pair_window : response (.read 0x150 .word) State.reset = some (.data 0) := by decide
theorem test_status_write :
    statusWord (writeStatus 4 (raiseCmdError .emptyPairSet onePair)) = 0x02 ∧
    statusWord (writeStatus 2 (raiseCmdError .emptyPairSet onePair)) = 0x44 ∧
    statusWord (writeStatus 0xFFFFFFFF (dropCommand searching)) = 0x01 := by decide +kernel
theorem test_ctrl_and_ridx :
    blockAfter .ctrl 0xFFFFFFFF State.reset = { State.reset.block with ie := true } ∧
    blockAfter .ridx 0xFFFFFFFF State.reset = { State.reset.block with ridx := 0x3FF } := by decide +kernel

/-! ### The host adapter and the assembler (section 2.10, rules R61, R62) -/

theorem test_parse :
    (parseBits "1010000010".toList 10 .invalidKeyLength == .ok 0x282) = true ∧
    (parseBits "10a".toList 10 .invalidKeyLength == .error .invalidBitString) = true ∧
    (parseBits "".toList 8 .invalidBlockLength == .error .invalidBlockLength) = true ∧
    (parseBits "1010 0010".toList 8 .invalidBlockLength == .error .invalidBitString) = true := by decide +kernel
theorem test_render :
    renderBits (0x8D#8) = "10001101".toList ∧ renderBits (0x005#10) = "0000000101".toList := by decide
theorem test_block_is_checked_before_key :
    hostEncrypt "1010101".toList "10x".toList = .fails .invalidBlockLength := by decide +kernel
theorem test_search_operation :
    hostSearch defaultParams [] 4 = .fails .emptyPairSet ∧
    hostSearch defaultParams [(0xAA, 0x8D)] 0 = .refused := by decide
theorem test_assembler :
    assembleLine "rotl5 0x16, 16".toList = none ∧ assembleLine "search 17".toList = none ∧
    assembleLine "crack 0xAA, 0x8D, 4".toList = some [.pclr, .padd 0xAA 0x8D, .search 4] ∧
    assembleLine "ipinv 0x33".toList = some [.permIpInv 0x33] := by decide +kernel

/-! ### The states above meet the invariant -/

theorem defaultParams_valid : defaultParams.Valid := by decide
theorem smallParams_valid : smallParams.Valid := by decide

theorem reset_inv : State.reset.Inv := ⟨defaultParams_valid, reset_blockInv defaultParams_valid⟩

theorem onePair_inv : onePair.Inv defaultParams :=
  appendPair_inv _ _ defaultParams_valid (reset_blockInv defaultParams_valid) rfl (by decide)

theorem fullState_inv : fullState.Inv :=
  ⟨smallParams_valid,
    appendPair_inv _ _ smallParams_valid (reset_blockInv smallParams_valid) rfl (by decide)⟩

theorem searching_inv : searching.Inv defaultParams := by
  unfold searching
  exact startSearch_inv onePair_inv (by decide) (by decide) rfl

theorem searching_busy : searching.busy = true := by
  rw [searching, startSearch_busy]

theorem searching_lanes : searching.activeLanes = 4 := by
  rw [searching, startSearch_activeLanes]

theorem scanned_inv : scanned.Inv defaultParams := by
  rw [scanned]
  exact laneSteps_inv (p := defaultParams) _ searching_inv

theorem scanned_busy : scanned.busy = true := by
  rw [scanned, laneSteps_busy, searching_busy]

theorem scanned_pending : scanned.pending = [] := by
  apply List.length_eq_zero_iff.mp
  rw [scanned, laneSteps_pending_length, Nat.sub_self]

theorem searching_pending : searching.pending ≠ [] := by
  rw [searching, startSearch_pending]
  exact List.ne_nil_of_mem (mem_allKeys 0)

theorem oneMatch_count : oneMatch.matchCnt.toNat = matchCount oneMatch.matchMap := by decide +kernel

/-- An idle block may hold any results whose count is right. -/
theorem results_inv {p : Params} {b : Block} (m : MatchMap) (n : BitVec 11) (h : b.Inv p)
    (hb : b.busy = false) (hn : n.toNat = matchCount m) :
    ({ b with matchMap := m, matchCnt := n } : Block).Inv p where
  pairCnt_le := h.pairCnt_le
  pairP_length := h.pairP_length
  pairC_length := h.pairC_length
  pairs_above_zero := h.pairs_above_zero
  errCode_zero_iff := h.errCode_zero_iff
  errCode_known := h.errCode_known
  lanes_range := h.lanes_range
  idle_nothing_pending := h.idle_nothing_pending
  pending_ascending := h.pending_ascending
  busy_not_done := h.busy_not_done
  busy_has_pair := h.busy_has_pair
  busy_match hb' := absurd (hb.symm.trans hb') (by decide)
  idle_matchCnt _ := hn
  matchCnt_le := hn ▸ matchCount_le m

theorem oneMatch_inv : oneMatch.Inv defaultParams := results_inv _ _ onePair_inv rfl oneMatch_count

/-- A search at its end, with the given turns to come and host program. -/
def scannedState (ts : List Turn) (prog : List HostLine) : State :=
  { withBlock scanned with turns := ts, host := ⟨prog, []⟩ }

theorem scannedState_inv (ts : List Turn) (prog : List HostLine) : (scannedState ts prog).Inv :=
  ⟨defaultParams_valid, scanned_inv⟩

/-- The join's turn, with the join enabled, is the join. -/
theorem step_join {s : State} {ts : List Turn} (h1 : s.turns = .join :: ts) (hb : s.block.busy = true)
    (hp : s.block.pending = []) : step s = .next (joinMove { s with turns := ts }) := by
  unfold step nextMove
  rw [h1]
  simp [takeTurn, joinEnabled, hb, hp]

/-! ### Witnesses: the hypotheses of each obligation that has some, met together -/

theorem witness_DecodeOfEncode :
    (Instr.rotl5 0x3FF 15).wellFormed = true ∧ (Instr.search 16).wellFormed = true ∧
    (Instr.search 1).wellFormed = true := by decide

theorem witness_EncodeOfDecode :
    decode 0xA3000000 = .ok (.search 4) ∧ decode 0x7F0003FF = .ok (.rotl5 0x3FF 15) := by decide

/-- A word that decodes, and a row that it matches. -/
theorem witness_DecodeAgreesWithMaskMatchTable :
    decode 0x128200AA = .ok (.enc 0x282 0xAA) ∧
    (∃ r ∈ opcodeRows, r.matchesWord 0x128200AA = true) := by
  refine ⟨by decide, opcodeRow (.enc 0 0), by simp [opcodeRows], by decide⟩

/-- One word of each kind of illegal word, at the boundary of its range. -/
theorem witness_IllegalWords :
    illegalWord 0xB0000000 ∧ illegalWord 0x56000000 ∧ illegalWord 0x62000000 ∧ illegalWord 0x08000000 ∧
    illegalWord 0x80000001 ∧ illegalWord 0x14000000 ∧ illegalWord 0x20000100 ∧ illegalWord 0x30000001 ∧
    illegalWord 0x40010000 ∧ illegalWord 0x98000000 ∧ illegalWord 0x50000400 ∧ illegalWord 0x60800000 ∧
    illegalWord 0x70000400 ∧ illegalWord 0xA0000001 ∧ State.reset.block.busy = false := by
  refine ⟨?_, ?_, ?_, ?_, ?_, ?_, ?_, ?_, ?_, ?_, ?_, ?_, ?_, ?_, rfl⟩ <;> (unfold illegalWord; decide)

/-- The smallest operand that is too wide, of each command that can have one. -/
theorem witness_WideOperands :
    decode 0x52000100 = .ok (.permIp 0x100) ∧ operandTooWide (.permIp 0x100) = true ∧
    decode 0x54000010 = .ok (.permEp 0x10) ∧ operandTooWide (.permEp 0x10) = true ∧
    decode 0x60000010 = .ok (.sboxA 0x10) ∧ operandTooWide (.sboxA 0x10) = true ∧
    decode 0x70000020 = .ok (.rotl5 0x20 0) ∧ operandTooWide (.rotl5 0x20 0) = true := by decide

theorem witness_AssembledCommandsAreWellFormed :
    assembleLine "crack 0xAA, 0x8D, 16".toList = some [.pclr, .padd 0xAA 0x8D, .search 16] ∧
    assembleLine "rotl5 1023, 15".toList = some [.rotl5 0x3FF 15] := by decide +kernel

/-- Numbers at the ends of the operands' ranges, and the first ones beyond. -/
theorem witness_operandRanges :
    readNumber 10 "1023".toList = some 1023 ∧ readNumber 10 "0x400".toList = some 1024 ∧
    readNumber 8 "0b11111111".toList = some 255 ∧ readNumber 8 "256".toList = some 256 ∧
    readNumber 4 "15".toList = some 15 ∧ readNumber 4 "16".toList = some 16 ∧
    readNumber 4 "0".toList = some 0 ∧ readNumber 4 "17".toList = some 17 ∧
    readNumber 2 (quoteChar :: ("10".toList ++ [quoteChar])) = some 2 := by decide +kernel

/-- No operand is truncated (rule R61). -/
theorem test_out_of_range_operands_do_not_assemble :
    assembleLine "enc 0x400, 0".toList = none ∧ assembleLine "dec 0, 256".toList = none ∧
    assembleLine "round 0, 0x100".toList = none ∧ assembleLine "perm p10, 1024".toList = none := by decide +kernel

/-- The legal and the illegal clause. -/
theorem witness_StepRunsTheWrittenCommand :
    (let s := State.reset.withFetchWord 32 0x128200AA
     s.turns = .host :: [] ∧ s.host.prog = .bus (writeAccess s.cfg .cmd 0x128200AA) :: [] ∧
       decode 0x128200AA = .ok (.enc 0x282 0xAA)) ∧
    (let s := State.reset.withFetchWord 32 0xB0000000
     s.turns = .host :: [] ∧ s.host.prog = .bus (writeAccess s.cfg .cmd 0xB0000000) :: [] ∧
       decode 0xB0000000 = .error .reservedOpcode) := by decide

theorem witness_StepRunsTheHostsCommandLine :
    let s : State := { State.reset with turns := [.host], host := ⟨[.cmd (.search 16)], []⟩ }
    (Instr.search 16).wellFormed = true ∧ s.turns = .host :: [] ∧ s.host.prog = .cmd (.search 16) :: [] := by decide

theorem witness_CommandWhileBusyIsDropped : (withBlock searching).block.busy = true := searching_busy

/-- One word for each error kind, idle. -/
theorem witness_FailedCommandWritesOnlyItsError :
    State.reset.block.busy = false ∧ wordError 0xB0000000 State.reset = some .illegalCommand ∧
    wordError 0x52000100 State.reset = some .invalidBlockLength ∧
    wordError 0xA0000000 State.reset = some .emptyPairSet ∧
    fullState.block.busy = false ∧ wordError 0x90000000 fullState = some .pairTableFull := by decide

/-- A SEARCH that starts and a command that completes. -/
theorem witness_SuccessfulCommandKeepsEarlierErrors :
    (withBlock onePair).block.busy = false ∧ decode 0xA0000000 = .ok (.search 1) ∧
    commandError (.search 1) (withBlock onePair) = none ∧
    decode 0x520000FF = .ok (.permIp 0xFF) ∧ commandError (.permIp 0xFF) (withBlock onePair) = none := by decide

/-- The one hypothesis of NOP, KSCHED, ROUND, ENC, DEC, PERM, SBOX, ROTL5 and PCLR. -/
theorem witness_idle : State.reset.block.busy = false := rfl

/-- Room for one more pair, and none. -/
theorem witness_PaddAppendsThePair :
    (State.reset.Inv ∧ State.reset.block.busy = false ∧
      State.reset.block.pairCnt.toNat < State.reset.cfg.maxPairs) ∧
    (fullState.Inv ∧ fullState.block.busy = false ∧ fullState.block.pairCnt.toNat = fullState.cfg.maxPairs) :=
  ⟨⟨reset_inv, rfl, by decide⟩, fullState_inv, rfl, by decide⟩

/-- The last free entry: MAX_PAIRS − 1 pairs held. -/
theorem witness_PaddAppendsThePair_last :
    let s : State := { State.reset with cfg := smallParams, block := Block.reset smallParams }
    s.Inv ∧ s.block.busy = false ∧ s.block.pairCnt.toNat + 1 = s.cfg.maxPairs :=
  ⟨⟨smallParams_valid, reset_blockInv smallParams_valid⟩, rfl, rfl⟩

theorem witness_SearchStartsTheScan :
    (Instr.search 1).wellFormed = true ∧ (Instr.search 16).wellFormed = true ∧
    (withBlock onePair).block.busy = false ∧ (withBlock onePair).block.pairCnt ≠ 0 ∧
    State.reset.block.busy = false ∧ State.reset.block.pairCnt = 0 := by decide

theorem witness_PermuteTakesTheNamedPositions :
    tablesA.p8.length = 8 ∧ (∀ e ∈ tablesA.p8, 1 ≤ e ∧ e ≤ 10) ∧ (1 ≤ 1 ∧ 1 ≤ 8) ∧ (1 ≤ 8 ∧ 8 ≤ 8) := by decide

/-- Both rotation clauses, and positions 1 and w. -/
theorem witness_RotlMovesPositions :
    1 ≤ 5 ∧ ((-5 : Int) % (5 : Nat)).toNat = 0 ∧ ((-1 : Int) % (5 : Nat)).toNat ≠ 0 ∧
    (1 ≤ 1 ∧ 1 ≤ 5) ∧ (1 ≤ 5 ∧ 5 ≤ 5) := by decide

/-- Both of the spec's instantiations satisfy rule R36. -/
theorem witness_validTables : tablesA.Valid ∧ tablesB.Valid := by decide

theorem witness_PermIpInvUndoesPermIp : State.reset.cfg.Valid ∧ State.reset.block.busy = false :=
  ⟨defaultParams_valid, rfl⟩

/-- A command that fails whatever the state, and one that writes. -/
theorem witness_CipherResultsIgnoreEarlierState :
    readsOnlyItsWord (.permIp 0x3FF) = true ∧ readsOnlyItsWord (.enc 0 0) = true ∧
    State.reset.cfg.tables = tablesA ∧ State.reset.block.busy = false := by decide

/-- Below and above the window, and the ends of the unmapped ranges. -/
theorem witness_WindowMapsTheListedOffsets :
    (0x0FFF < smallParams.base) ∧ (smallParams.base + 0xFFF < 0x2000) ∧
    (∀ a ∈ [0x02C, 0x0FC, 0x280, 0xFFC], regAt a = none) ∧ regAt 0x028 = some .rkey ∧
    regAt 0x100 = some (.pair 0) ∧ regAt 0x27C = some (.matchmap 31) := by decide

/-- One access for each reason, at the ends of the window. -/
theorem witness_RefusedAccessIsABusError :
    let p := smallParams
    (p.base ≤ 0x1000 ∧ 0x1000 ≤ p.base + 0xFFF ∧ AccessWidth.burst ≠ .word) ∧
    (p.base ≤ 0x1FFF ∧ 0x1FFF ≤ p.base + 0xFFF ∧ (0x1FFF - p.base) % 4 ≠ 0) ∧
    (p.base ≤ 0x1280 ∧ 0x1280 ≤ p.base + 0xFFF ∧ ∀ r : Reg, 0x1280 ≠ regAddr p r) := by
  refine ⟨by decide, by decide, by decide, by decide, fun r => ?_⟩
  have := offset_le r
  show 0x1280 ≠ 0x1000 + r.offset
  omega

/-- Idle and searching. -/
theorem witness_quietReads :
    (State.reset.Inv ∧ State.reset.resultHazard .rkey = false) ∧
    ((withBlock searching).Inv ∧ (withBlock searching).resultHazard .dout = false) :=
  ⟨⟨reset_inv, rfl⟩, ⟨defaultParams_valid, searching_inv⟩, Bool.and_false _⟩

theorem witness_RegistersReadTheirFields :
    State.reset.Inv ∧ State.reset.cfg.maxPairs ≤ (16 : Fin 64).val ∧ fullState.Inv ∧
    fullState.cfg.maxPairs ≤ (1 : Fin 64).val ∧ State.reset.block.busy = false :=
  ⟨reset_inv, by decide, fullState_inv, by decide, rfl⟩

theorem witness_writeCmd : ∃ t, writeCmd 0x00000000 State.reset = .next t := ⟨_, rfl⟩

theorem witness_ReadOnlyRegistersIgnoreWrites :
    [Reg.dout, .subkeys, .paircnt, .matchcnt, .elapsed, .caps, .rkey, .pair 0, .pair 63, .matchmap 31].all
      (fun r => decide (r ∉ [Reg.cmd, .status, .ctrl, .ridx])) = true := by decide

/-- The last index of the list, and the first beyond it. -/
theorem witness_RkeyAndMatchmapShowTheMatches :
    ((withBlock oneMatch).Inv ∧ oneMatch.busy = false ∧ oneMatch.ridx.toNat < oneMatch.matchCnt.toNat) ∧
    (State.reset.Inv ∧ State.reset.block.busy = false ∧
      State.reset.block.matchCnt.toNat ≤ State.reset.block.ridx.toNat) :=
  ⟨⟨⟨defaultParams_valid, oneMatch_inv⟩, rfl, by decide⟩, reset_inv, rfl, by decide⟩

theorem witness_ResultReadsWhileBusyAreDraws :
    (withBlock searching).block.busy = true ∧ Reg.isSearchResult (.matchmap 0) = true ∧
    Reg.isSearchResult .status = false := ⟨searching_busy, rfl, rfl⟩

theorem witness_IrqRisesAtCompletion :
    (let s := withBlock { onePair with ie := true }
     s.block.busy = false ∧ s.block.ie = true ∧ ∃ t, writeCmd 0xA0000000 s = .next t) ∧
    ((withBlock searching).Inv ∧ (withBlock searching).block.busy = true) ∧
    State.reset.block.ie = false :=
  ⟨⟨rfl, rfl, (writeCmd_next _ _).elim fun _ h => ⟨_, h⟩⟩, ⟨⟨defaultParams_valid, searching_inv⟩, searching_busy⟩, rfl⟩

theorem witness_ResetLeavesTheSpecsState : State.reset.block = Block.reset defaultParams := rfl

/-- A reset turn during a search, and the join. -/
theorem witness_ResetEndsASearch :
    (let s : State := { withBlock searching with turns := [.reset] }
     s.turns = .reset :: [] ∧ s.block.busy = true ∧ ∃ t, step s = .next t ∧ t.block.busy = false) ∧
    (let s := scannedState [.join] []
     s.block.busy = true ∧ ∃ t, step s = .next t ∧ t.block.busy = false) :=
  ⟨⟨rfl, searching_busy, _, step_reset rfl, rfl⟩, scanned_busy, _, step_join rfl scanned_busy scanned_pending, rfl⟩

theorem witness_ParametersNeverChange : ∃ t, step State.reset = .next t := ⟨_, rfl⟩

/-- ERR and OVR set, then cleared by one write of 0xC to STATUS. -/
theorem witness_StickyFlagsNeedAWriteOrAReset :
    let s : State := { withBlock (dropCommand (raiseCmdError .emptyPairSet onePair)) with
      host := ⟨[.wr .status 0xC], []⟩ }
    s.block.err = true ∧ s.block.ovr = true ∧
      ∃ t, step s = .next t ∧ t.block.err = false ∧ t.block.ovr = false :=
  ⟨rfl, rfl, _, rfl, rfl, rfl⟩

theorem witness_EveryStepKeepsTheInvariant : State.reset.Inv ∧ ∃ t, step State.reset = .next t :=
  ⟨reset_inv, _, rfl⟩

/-- The last lane that may step, and the first that may not. -/
theorem witness_LaneStepChecksOnePendingKey :
    let s : State := { withBlock searching with turns := [.lane 3 642] }
    (s.block.busy = true ∧ s.block.pending ≠ [] ∧ 3 < s.block.activeLanes ∧ s.turns = .lane 3 642 :: []) ∧
    642 ∈ s.block.pending ∧
    ¬ (s.block.busy = true ∧ s.block.pending ≠ [] ∧ 4 < s.block.activeLanes) :=
  ⟨⟨searching_busy, searching_pending, by simp [withBlock, searching_lanes], rfl⟩,
    by simp [withBlock, searching], by simp [withBlock, searching_lanes]⟩

theorem witness_JoinPublishesTheCount :
    ((scannedState [.join] []).turns = .join :: [] ∧ (scannedState [.join] []).block.busy = true ∧
      (scannedState [.join] []).block.pending = []) ∧
    (let s : State := { withBlock searching with turns := [.join] }
     s.turns = .join :: [] ∧ ¬ (s.block.busy = true ∧ s.block.pending = [])) :=
  ⟨⟨rfl, scanned_busy, scanned_pending⟩, rfl, fun h => searching_pending h.2⟩

theorem witness_NothingDisturbsARunningSearch :
    let s : State := { withBlock searching with turns := [.host] }
    s.block.busy = true ∧ s.turns.head? ≠ some .reset ∧ ∃ t, step s = .next t :=
  ⟨searching_busy, by simp, _, rfl⟩

/-- A run of one step (a host turn that passes) and then the join. -/
theorem witness_SearchFindsExactlyTheCandidates :
    let s := scannedState [.host, .join] []
    let u := scannedState [.join] []
    s.Inv ∧ (∀ turn ∈ s.turns.take (1 + 1), turn ≠ .reset) ∧
    (∀ m ≤ 1, ∀ v : State, core.run m s = .next v → v.block.busy = true) ∧
    core.run 1 s = .next u ∧ ∃ t, step u = .next t ∧ t.block.busy = false := by
  have hrun : core.run 1 (scannedState [.host, .join] []) = .next (scannedState [.join] []) := rfl
  refine ⟨scannedState_inv _ _, by simp [scannedState], ?_, hrun, _,
    step_join rfl scanned_busy scanned_pending, rfl⟩
  intro m hm v hv
  obtain rfl | rfl : m = 0 ∨ m = 1 := by omega
  · injection hv with hv
    subst hv
    exact scanned_busy
  · rw [hrun] at hv
    injection hv with hv
    subst hv
    exact scanned_busy

/-- 1024 keys pending (the bound), and none. -/
theorem witness_EverySearchEnds :
    ((withBlock searching).Inv ∧ (withBlock searching).block.busy = true ∧ (withBlock searching).turns = []) ∧
    ((scannedState [] []).Inv ∧ (scannedState [] []).block.busy = true ∧ (scannedState [] []).turns = []) :=
  ⟨⟨⟨defaultParams_valid, searching_inv⟩, searching_busy, rfl⟩, scannedState_inv _ _, scanned_busy, rfl⟩

/-- Each kind of line that writes CMD: an ENC, a SEARCH, an illegal word. -/
theorem witness_JoinAndCommandInEitherOrder :
    let s (l : HostLine) := scannedState [] [l]
    (∀ l, (s l).block.busy = true ∧ (s l).block.pending = [] ∧ (s l).host.prog = l :: []) ∧
    writesCommand defaultParams 0x128200AA (.cmd (.enc 0x282 0xAA)) ∧
    writesCommand defaultParams 0xA0000000 (.wr .cmd 0xA0000000) ∧
    writesCommand defaultParams 0xFFFFFFFF (.bus (writeAccess defaultParams .cmd 0xFFFFFFFF)) ∧
    decode 0x128200AA = .ok (.enc 0x282 0xAA) ∧ (∀ n, decode 0x128200AA ≠ .ok (.search n)) :=
  ⟨fun _ => ⟨scanned_busy, scanned_pending, rfl⟩, .inr (.inr ⟨_, rfl, by decide, rfl⟩), .inr (.inl rfl), .inl rfl,
    by decide, fun n h => by
      rw [show decode 0x128200AA = .ok (.enc 0x282 0xAA) by decide] at h
      injection h with h
      cases h⟩

/-- A pair made with key 0x282, and a contradictory table. -/
theorem witness_CandidatesAreAConjunction :
    ([0xAA].length = [0x8D].length ∧
      ∀ i < [(0xAA : Byte)].length, [(0x8D : Byte)].getD i 0 = encrypt tablesA ([(0xAA : Byte)].getD i 0) 0x282) ∧
    (let ps : List Byte := [0xAA, 0xAA]
     let cs : List Byte := [0x8D, 0x8E]
     cs.length = ps.length ∧ ps.getD 0 0 = ps.getD 1 0 ∧ cs.getD 0 0 ≠ cs.getD 1 0) := by decide +kernel

/-- A bad character, a wrong length, and a string that parses (the empty one too, at width 0). -/
theorem witness_ParseAndRenderAreInverse :
    (∃ c ∈ ['1', '0', 'a'], c ≠ '0' ∧ c ≠ '1') ∧
    ((∀ c ∈ ['1', '0', '1'], c = '0' ∨ c = '1') ∧ ['1', '0', '1'].length ≠ 4) ∧
    ((∀ c ∈ ['1', '0', '1', '1'], c = '0' ∨ c = '1') ∧ ['1', '0', '1', '1'].length = 4) ∧
    ((∀ c ∈ ([] : List Char), c = '0' ∨ c = '1') ∧ ([] : List Char).length = 0) := by
  refine ⟨⟨'a', by simp⟩, ?_, ?_, ?_⟩ <;> simp

theorem witness_HostCipherOperationsReturnTheResult :
    State.reset.block.busy = false ∧ State.reset.turns = [] ∧
    parseBits "10101010".toList 8 .invalidBlockLength = .ok 0xAA ∧
    parseBits "1010000010".toList 10 .invalidKeyLength = .ok 0x282 :=
  ⟨rfl, rfl, by decide +kernel, by decide +kernel⟩

/-- MAX_PAIRS = 1 cuts two pairs into two chunks (section 2.10). -/
theorem witness_ChunksHoldEveryPairInOrder :
    pairChunks 1 [((0xAA : Byte), (0x8D : Byte)), (0x55, 0xC1)] = [[(0xAA, 0x8D)], [(0x55, 0xC1)]] := by decide

theorem witness_EndedRunIsAtRest :
    (State.reset.runEnded = true ∧ State.reset.turns = []) ∧
    ((withBlock searching).Inv ∧ (withBlock searching).block.busy = true ∧ (withBlock searching).turns = []) :=
  ⟨⟨rfl, rfl⟩, ⟨defaultParams_valid, searching_inv⟩, searching_busy, rfl⟩

end Sys2Proof.Tests
end

section
/-! The parts of a step, from the inside out: what an accepted command, a write of a register, a host turn and
a step can do, each said once; then the statements about every step. -/

namespace Sys2Proof.Machine

/-! ### The decoder gives well-formed instructions alone -/

/-- A check that answers `.ok` has passed. -/
theorem ok_of_check {ε α : Type} {c : Prop} [Decidable c] {e : ε} {a a' : α}
    (h : (if c then Except.ok a else Except.error e) = .ok a') : a' = a := by
  split at h <;> cases h
  rfl

theorem formatZ_ok {w : Word} {i j : Instr} (h : formatZ w i = .ok j) : j = i := ok_of_check h

theorem formatS_ok {w : Word} {i j : Instr} (h : formatS w i = .ok j) : j = i := ok_of_check h

theorem formatK_ok {w : Word} {mk : Key → Byte → Instr} {j : Instr} (h : formatK w mk = .ok j) :
    j = mk (fieldKey w) (fieldData w) := ok_of_check h

theorem formatKS_ok {w : Word} {mk : Key → Instr} {j : Instr} (h : formatKS w mk = .ok j) :
    j = mk (fieldKey w) := ok_of_check h

theorem formatR_ok {w : Word} {mk : Byte → Byte → Instr} {j : Instr} (h : formatR w mk = .ok j) :
    j = mk (fieldData w) (fieldAux w) := ok_of_check h

theorem formatU_ok {w : Word} {mk : BitVec 10 → Instr} {j : Instr} (h : formatU w mk = .ok j) :
    j = mk (fieldVal w) := ok_of_check h

theorem decodePerm_wellFormed {w : Word} {i : Instr} (h : decodePerm w = .ok i) : i.wellFormed = true := by
  unfold decodePerm at h
  split at h
  case h_7 => cases h
  all_goals rw [formatU_ok h]; rfl

theorem decodeSbox_wellFormed {w : Word} {i : Instr} (h : decodeSbox w = .ok i) : i.wellFormed = true := by
  unfold decodeSbox at h
  split at h
  case h_3 => cases h
  all_goals rw [formatU_ok h]; rfl

/-- SEL has four bits, which bounds the two operands that are counts (rules R56, R61). -/
theorem decode_wellFormed {w : Word} {i : Instr} (h : decode w = .ok i) : i.wellFormed = true := by
  have hsel : (fieldSel w).toNat < 16 := (fieldSel w).isLt
  unfold decode at h
  split at h
  case h_1 => rw [formatZ_ok h]; rfl
  case h_2 => rw [formatK_ok h]; rfl
  case h_3 => rw [formatK_ok h]; rfl
  case h_4 => rw [formatKS_ok h]; rfl
  case h_5 => rw [formatR_ok h]; rfl
  case h_6 => exact decodePerm_wellFormed h
  case h_7 => exact decodeSbox_wellFormed h
  case h_8 => rw [formatU_ok h]; exact decide_eq_true hsel
  case h_9 => rw [formatZ_ok h]; rfl
  case h_10 => rw [formatR_ok h]; rfl
  case h_11 =>
    rw [formatS_ok h]
    simp only [Instr.wellFormed, workerCountOk, Bool.and_eq_true, decide_eq_true_eq]
    omega
  case h_12 => cases h

/-! ### What an accepted command can do -/

/-- The kinds of error that the block itself raises (rule R103): the other two are the host adapter's. -/
abbrev ErrorKind.RaisedByBlock (e : ErrorKind) : Prop := e ≠ .invalidBitString ∧ e ≠ .invalidKeyLength

/-- What a command accepted by the idle block `b` can leave: results in DOUT and SUBKEYS, a cleared or a grown
pair table, a started search, or an error. -/
inductive AcceptedAs (p : Params) (b : Block) : Block → Prop where
  | results (d : BitVec 10) (k1 k2 : Byte) :
      AcceptedAs p b { b with dout := d, k1 := k1, k2 := k2, done := true }
  | cleared : AcceptedAs p b (complete (clearPairs p b))
  | appended (pt ct : Byte) (hroom : pairTableFull p b = false) :
      AcceptedAs p b (complete (appendPair pt ct b))
  | started (workers : Nat) (hworkers : 1 ≤ workers) (hpair : b.pairCnt ≠ 0) :
      AcceptedAs p b (startSearch (lanesFor p workers) (clearDone b))
  | failed (e : ErrorKind) (he : e.RaisedByBlock) : AcceptedAs p b (raiseCmdError e b)

@[simp] theorem pairTableFull_clearDone (p : Params) (b : Block) :
    pairTableFull p (clearDone b) = pairTableFull p b := rfl

@[simp] theorem pairTableEmpty_clearDone (b : Block) : pairTableEmpty (clearDone b) = pairTableEmpty b := rfl

/-- PERM, SBOX and ROTL5: the operand's value goes to DOUT, or it is too wide. -/
theorem widthChecked_acceptedAs (p : Params) (b : Block) {n out : Nat} (val : BitVec 10)
    (g : BitVec n → BitVec out) :
    AcceptedAs p b (accept
      (fun b => ((widthChecked n val).map fun v => writeDout (g v) b).map complete) b) := by
  by_cases hw : val >>> n = 0
  · rw [accept_ok (b' := complete (writeDout (g (val.setWidth n)) (clearDone b)))
      (by rw [widthChecked_ok hw]; rfl)]
    exact .results _ b.k1 b.k2
  · rw [accept_error (e := .invalidBlockLength) (by rw [widthChecked_error hw]; rfl)]
    exact .failed _ (by decide)

theorem padd_acceptedAs (p : Params) (b : Block) (pt ct : Byte) :
    AcceptedAs p b (accept (fun b =>
      (if pairTableFull p b then Except.error ErrorKind.pairTableFull else .ok (appendPair pt ct b)).map
        complete) b) := by
  cases hfull : pairTableFull p b with
  | true =>
    rw [accept_error (e := .pairTableFull) (by simp [hfull, Except.map])]
    exact .failed _ (by decide)
  | false =>
    rw [accept_ok (b' := complete (appendPair pt ct (clearDone b))) (by simp [hfull, Except.map])]
    exact .appended pt ct hfull

theorem search_acceptedAs (p : Params) (b : Block) {workers : Nat} (hw : 1 ≤ workers) :
    AcceptedAs p b (accept (fun b =>
      if pairTableEmpty b then Except.error ErrorKind.emptyPairSet
      else .ok (startSearch (lanesFor p workers) b)) b) := by
  cases hempty : pairTableEmpty b with
  | true =>
    rw [accept_error (e := .emptyPairSet) (by simp [hempty])]
    exact .failed _ (by decide)
  | false =>
    rw [accept_ok (b' := startSearch (lanesFor p workers) (clearDone b)) (by simp [hempty])]
    exact .started workers hw (by simpa [pairTableEmpty] using hempty)

theorem exec_acceptedAs (i : Instr) (hi : i.wellFormed = true) (s : State) (hb : s.block.busy = false) :
    ∃ b, exec i s = .next { s with block := b } ∧ AcceptedAs s.cfg s.block b := by
  have idle : ∀ f, AcceptedAs s.cfg s.block (accept f s.block) →
      ∃ b, offer f s = .next { s with block := b } ∧ AcceptedAs s.cfg s.block b :=
    fun f h => ⟨_, offer_idle f hb, h⟩
  cases i with
  | nop => exact idle _ (.results s.block.dout s.block.k1 s.block.k2)
  | enc key data => exact idle _ (.results _ _ _)
  | dec key data => exact idle _ (.results _ _ _)
  | ksched key => exact idle _ (.results s.block.dout _ _)
  | round data aux => exact idle _ (.results _ s.block.k1 s.block.k2)
  | permP10 val => exact idle _ (widthChecked_acceptedAs _ _ val _)
  | permP8 val => exact idle _ (widthChecked_acceptedAs _ _ val _)
  | permIp val => exact idle _ (widthChecked_acceptedAs _ _ val _)
  | permIpInv val => exact idle _ (widthChecked_acceptedAs _ _ val _)
  | permEp val => exact idle _ (widthChecked_acceptedAs _ _ val _)
  | permP4 val => exact idle _ (widthChecked_acceptedAs _ _ val _)
  | sboxA val => exact idle _ (widthChecked_acceptedAs _ _ val _)
  | sboxB val => exact idle _ (widthChecked_acceptedAs _ _ val _)
  | rotl5 val amount => exact idle _ (widthChecked_acceptedAs _ _ val _)
  | pclr => exact idle _ .cleared
  | padd p c => exact idle _ (padd_acceptedAs _ _ p c)
  | search workers =>
    have hw : 1 ≤ workers ∧ workers ≤ 16 := by simpa [Instr.wellFormed, workerCountOk] using hi
    exact idle _ (search_acceptedAs _ _ hw.1)

/-- A word written to CMD of an idle block is accepted (rule R66). -/
theorem writeCmd_acceptedAs (w : Word) (s : State) (hb : s.block.busy = false) :
    ∃ b, writeCmd w s = .next { s with block := b } ∧ AcceptedAs s.cfg s.block b := by
  unfold writeCmd
  split
  · exact exec_acceptedAs _ (decode_wellFormed ‹_›) s hb
  · exact ⟨_, offer_idle _ hb, .failed .illegalCommand (by decide)⟩

/-- An accepted command keeps the invariant. -/
theorem AcceptedAs.inv {p : Params} {b b' : Block} (hp : p.Valid) (h : b.Inv p) (hb : b.busy = false)
    (ha : AcceptedAs p b b') : b'.Inv p := by
  cases ha with
  | results d k1 k2 =>
    exact complete_inv (b := writeSubkeys (k1, k2) (writeDout d b)) (writeSubkeys_inv _ (writeDout_inv d h)) hb
  | cleared => exact complete_inv (clearPairs_inv h hb) hb
  | appended pt ct hroom => exact complete_inv (appendPair_inv pt ct hp h hb hroom) hb
  | started workers hworkers hpair =>
    have hlanes : 1 ≤ lanesFor p workers ∧ lanesFor p workers ≤ p.numLanes :=
      ⟨Nat.le_min.mpr ⟨hworkers, hp.1.1⟩, Nat.min_le_right ..⟩
    exact startSearch_inv (clearDone_inv h) hlanes hpair rfl
  | failed e he => exact raiseCmdError_inv he h hb

/-- An accepted command clears no error and touches neither OVR, CTRL nor RIDX. -/
theorem AcceptedAs.keeps {p : Params} {b b' : Block} (ha : AcceptedAs p b b') :
    (b.err = true → b'.err = true) ∧ b'.ovr = b.ovr ∧ b'.ie = b.ie ∧ b'.ridx = b.ridx := by
  cases ha with
  | failed e he => exact ⟨fun _ => rfl, rfl, rfl, rfl⟩
  | _ => exact ⟨id, rfl, rfl, rfl⟩

/-! ### What a write of a register can do -/

/-- What a write of the word `w` to a register can make of the block `b`. -/
inductive WrittenAs (p : Params) (b : Block) : Reg → Word → Block → Prop where
  | dropped (w : Word) (hbusy : b.busy = true) : WrittenAs p b .cmd w (dropCommand b)
  | accepted (w : Word) (b' : Block) (hidle : b.busy = false) (h : AcceptedAs p b b') : WrittenAs p b .cmd w b'
  | status (w : Word) : WrittenAs p b .status w (writeStatus w b)
  | ctrl (w : Word) : WrittenAs p b .ctrl w { b with ie := w.getLsbD 0 }
  | ridx (w : Word) : WrittenAs p b .ridx w { b with ridx := w.extractLsb' 0 10 }
  | ignored (r : Reg) (w : Word) (h : r ∉ [Reg.cmd, .status, .ctrl, .ridx]) : WrittenAs p b r w b

theorem writeReg_writtenAs (r : Reg) (w : Word) (s : State) :
    ∃ b, writeReg r w s = .next { s with block := b } ∧ WrittenAs s.cfg s.block r w b := by
  cases r with
  | cmd =>
    cases hb : s.block.busy with
    | true => exact ⟨_, writeCmd_drops w hb, .dropped w hb⟩
    | false =>
      obtain ⟨b, hw, ha⟩ := writeCmd_acceptedAs w s hb
      exact ⟨b, hw, .accepted w b hb ha⟩
  | status => exact ⟨_, rfl, .status w⟩
  | ctrl => exact ⟨_, rfl, .ctrl w⟩
  | ridx => exact ⟨_, rfl, .ridx w⟩
  | _ => exact ⟨_, rfl, .ignored _ w (by simp)⟩

/-- A write of a register keeps the invariant. -/
theorem WrittenAs.inv {p : Params} {b b' : Block} {r : Reg} {w : Word} (hp : p.Valid) (h : b.Inv p)
    (hw : WrittenAs p b r w b') : b'.Inv p := by
  cases hw with
  | dropped w hbusy => exact dropCommand_inv h
  | accepted w b' hidle ha => exact ha.inv hp h hidle
  | status w => exact writeStatus_inv w h
  | ctrl w | ridx w =>
    exact blockInv_of_flags h rfl rfl rfl rfl rfl rfl rfl rfl h.errCode_zero_iff h.errCode_known h.busy_not_done
  | ignored r w hr => exact h

/-- Only a write of 1 to STATUS bit 2 takes ERR from 1 to 0 (rule R20). -/
theorem WrittenAs.err_cleared {p : Params} {b b' : Block} {r : Reg} {w : Word} (hw : WrittenAs p b r w b')
    (h1 : b.err = true) (h0 : b'.err = false) : r = .status ∧ w.getLsbD 2 = true := by
  cases hw with
  | accepted w b' hidle ha => simp [ha.keeps.1 h1] at h0
  | status w => exact ⟨rfl, by simpa [h1] using h0⟩
  | _ => simp [h1] at h0

/-- Only a write of 1 to STATUS bit 3 takes OVR from 1 to 0 (rule R20). -/
theorem WrittenAs.ovr_cleared {p : Params} {b b' : Block} {r : Reg} {w : Word} (hw : WrittenAs p b r w b')
    (h1 : b.ovr = true) (h0 : b'.ovr = false) : r = .status ∧ w.getLsbD 3 = true := by
  cases hw with
  | accepted w b' hidle ha => simp [ha.keeps.2.1, h1] at h0
  | status w => exact ⟨rfl, by simpa [h1] using h0⟩
  | _ => simp [h1] at h0

/-! ### The registers at their offsets -/

/-- The word number of the window that finds a register is the register's offset over 4. -/
theorem offset_of_regAtWord {n : Nat} {r : Reg} (h : regAtWord n = some r) : r.offset = 4 * n := by
  unfold regAtWord at h
  split at h
  case h_12 n _ _ _ _ _ _ _ _ _ _ _ =>
    split at h
    · cases h
      simp only [Reg.offset, Fin.val_ofNat]
      omega
    · split at h <;> cases h
      simp only [Reg.offset, Fin.val_ofNat]
      omega
  all_goals cases h; rfl

/-- An offset holds a register exactly if it is that register's (rule R18). -/
theorem regAt_eq_some_iff (offset : Nat) (r : Reg) : regAt offset = some r ↔ offset = r.offset := by
  constructor
  · intro h
    unfold regAt at h
    split at h
    · have := offset_of_regAtWord h
      omega
    · cases h
  · rintro rfl
    exact regAt_offset r

/-- An admitted access is the aligned word access to its register. -/
theorem admitted_eq_some {p : Params} {a : BusAccess} {r : Reg} (h : admitted p a = some r) :
    a.width = .word ∧ a.addr - p.base = r.offset := by
  unfold admitted at h
  split at h
  · exact ⟨‹_›, (regAt_eq_some_iff _ _).mp h⟩
  · cases h

/-! ### What one step can do -/

/-- What the host's turn can make of the whole state: the parameters stay, and the block stays as it is or is
written by an access, which is then the newest entry of the host's trace. -/
def HostEffect (s t : State) : Prop :=
  t.cfg = s.cfg ∧
    (t.block = s.block ∨
      ∃ r w, WrittenAs s.cfg s.block r w t.block ∧
        t.host.trace = (writeAccess s.cfg r w, .written) :: s.host.trace)

theorem HostEffect.of_same {s t : State} (hcfg : t.cfg = s.cfg) (hblock : t.block = s.block) :
    HostEffect s t := ⟨hcfg, .inl hblock⟩

theorem performAccess_hostEffect {a : BusAccess} {s t : State} (h : performAccess a s = .next t) :
    HostEffect s t := by
  unfold performAccess at h
  split at h
  case isFalse => cases h; exact .of_same rfl rfl
  case isTrue hin =>
    split at h
    · cases h; exact .of_same rfl rfl
    · rename_i r hadm
      obtain ⟨hwidth, haddr⟩ := admitted_eq_some hadm
      cases a with
      | read addr width =>
        obtain ⟨n, hn⟩ := readReg_state r s
        cases h
        rw [hn]
        exact .of_same rfl rfl
      | write addr width w =>
        obtain ⟨b, hw, hwritten⟩ := writeReg_writtenAs r w s
        have hbase : s.cfg.base ≤ addr := by
          simp only [inWindow, Bool.and_eq_true, decide_eq_true_eq] at hin
          exact hin.1
        have ha : BusAccess.write addr width w = writeAccess s.cfg r w := by
          simp only [BusAccess.width, BusAccess.addr] at hwidth haddr
          rw [writeAccess, regAddr, hwidth, ← haddr, Nat.add_sub_cancel' hbase]
        simp only [hw] at h
        cases h
        exact ⟨rfl, .inr ⟨r, w, hwritten, by rw [ha]; rfl⟩⟩

theorem runLine_hostEffect {l : HostLine} {s t : State} (h : runLine l s = .next t) : HostEffect s t := by
  cases l with
  | cmd i =>
    simp only [runLine] at h
    split at h
    · exact performAccess_hostEffect h
    · cases h; exact .of_same rfl rfl
  | rd r => exact performAccess_hostEffect h
  | wr r v => exact performAccess_hostEffect h
  | bus a => exact performAccess_hostEffect h
  | waitIdle =>
    simp only [runLine, performAccess_read, mapNext] at h
    cases h
    obtain ⟨hcfg, hblock, -⟩ := waitAgain_frame
      (record (readAccess s.cfg .status) (.data (readReg .status s).1) (readReg .status s).2)
    exact .of_same hcfg hblock
  | readKeys => cases h; exact .of_same rfl rfl

theorem hostTurn_hostEffect {s t : State} (h : hostTurn s = .next t) : HostEffect s t := by
  unfold hostTurn at h
  split at h
  · cases h; exact .of_same rfl rfl
  · rename_i l ls _
    exact runLine_hostEffect (s := { s with host := { s.host with prog := ls } }) h

/-- One step, said once: the host's turn (or a turn that passes), a key check, the join, or reset. -/
theorem step_cases {s t : State} (h : step s = .next t) :
    HostEffect s t ∨
      (t.cfg = s.cfg ∧
        ((∃ c, t.block = laneStep s.cfg.tables c s.block) ∨
          (s.block.pending = [] ∧ ∃ e, t.block = joinStep e s.block) ∨
          (s.turns.head? = some .reset ∧ t.block = Block.reset s.cfg))) := by
  have joined : joinEnabled s.block = true → s.block.pending = [] := fun h => by
    simp only [joinEnabled, Bool.and_eq_true, List.isEmpty_iff] at h
    exact h.2
  unfold step nextMove at h
  split at h
  · rename_i tn ts hts
    cases tn with
    | host => exact .inl (hostTurn_hostEffect (s := { s with turns := ts }) h)
    | lane l c =>
      cases h
      split
      · exact .inr ⟨rfl, .inl ⟨c, rfl⟩⟩
      · exact .inl (.of_same rfl rfl)
    | join =>
      cases h
      split
      · exact .inr ⟨rfl, .inr (.inl ⟨joined ‹_›, _, rfl⟩)⟩
      · exact .inl (.of_same rfl rfl)
    | reset =>
      cases h
      exact .inr ⟨rfl, .inr (.inr ⟨by rw [hts]; rfl, rfl⟩)⟩
  · split at h
    · unfold searchMove at h
      split at h
      · cases h
        exact .inr ⟨rfl, .inr (.inl ⟨joined ‹_›, _, rfl⟩)⟩
      · split at h <;> cases h
        exact .inr ⟨rfl, .inl ⟨_, rfl⟩⟩
    · exact .inl (hostTurn_hostEffect h)

/-- A key check changes SEARCH_PENDING and MATCH alone. -/
theorem laneStep_flags (t : Tables) (c : Nat) (b : Block) :
    (laneStep t c b).err = b.err ∧ (laneStep t c b).ovr = b.ovr := by
  obtain ⟨-, e⟩ | ⟨k, -, -, e⟩ := laneStep_cases t c b <;> rw [e] <;> exact ⟨rfl, rfl⟩

/-- A flag of the block that key checks and joins keep, and that a write of a register takes from 1 to 0 only
by a write to STATUS with bit `n` at 1, is taken from 1 to 0 by no other step but reset. -/
theorem step_clears_flag {flag : Block → Bool} {n : Nat}
    (hwrite : ∀ {p b b' r w}, WrittenAs p b r w b' → flag b = true → flag b' = false →
      r = .status ∧ w.getLsbD n = true)
    (hlane : ∀ t c b, flag (laneStep t c b) = flag b) (hjoin : ∀ e b, flag (joinStep e b) = flag b)
    {s t : State} (h : step s = .next t) (h1 : flag s.block = true) (h0 : flag t.block = false) :
    s.turns.head? = some .reset ∨
      ∃ v, t.host.trace = (writeAccess s.cfg .status v, .written) :: s.host.trace ∧ v.getLsbD n = true := by
  have kept : flag t.block ≠ flag s.block := by rw [h0, h1]; decide
  obtain ⟨-, hsame | ⟨r, w, hw, htrace⟩⟩ | ⟨-, ⟨c, hlane'⟩ | ⟨-, e, hjoin'⟩ | ⟨hreset, -⟩⟩ := step_cases h
  · exact absurd (by rw [hsame]) kept
  · obtain ⟨rfl, hbit⟩ := hwrite hw h1 h0
    exact .inr ⟨w, htrace, hbit⟩
  · exact absurd (by rw [hlane', hlane]) kept
  · exact absurd (by rw [hjoin', hjoin]) kept
  · exact .inl hreset

/-! ### The obligations about every step -/

/-- Settles O48: each of the steps of `step_cases` keeps the block's invariant, and none changes the
parameters. -/
theorem everyStepKeepsTheInvariant : Obligations.EveryStepKeepsTheInvariant := by
  unfold Obligations.EveryStepKeepsTheInvariant
  rintro s t ⟨hcfg, hblock⟩ h
  obtain ⟨hp, hsame | ⟨r, w, hw, -⟩⟩ | ⟨hp, ⟨c, hlane⟩ | ⟨hpending, e, hjoin⟩ | ⟨-, hreset⟩⟩ := step_cases h
  all_goals refine ⟨hp ▸ hcfg, ?_⟩; rw [hp]
  · rw [hsame]; exact hblock
  · exact hw.inv hcfg hblock
  · rw [hlane]; exact laneStep_inv c hblock
  · rw [hjoin]; exact joinStep_inv e hblock hpending
  · rw [hreset]; exact reset_blockInv hcfg

/-- Settles O45: every kind of step leaves the parameters. -/
theorem parametersNeverChange : Obligations.ParametersNeverChange := by
  unfold Obligations.ParametersNeverChange
  intro s t h
  obtain ⟨hcfg, -⟩ | ⟨hcfg, -⟩ := step_cases h <;> exact hcfg

/-- Settles O46: the register writes are the only steps, reset apart, that touch the two flags. -/
theorem stickyFlagsNeedAWriteOrAReset : Obligations.StickyFlagsNeedAWriteOrAReset := by
  unfold Obligations.StickyFlagsNeedAWriteOrAReset
  intro s t h
  constructor
  · exact step_clears_flag (flag := Block.err) WrittenAs.err_cleared (fun t c b => (laneStep_flags t c b).1)
      (fun _ _ => rfl) h
  · exact step_clears_flag (flag := Block.ovr) WrittenAs.ovr_cleared (fun t c b => (laneStep_flags t c b).2)
      (fun _ _ => rfl) h

end Sys2Proof.Machine
end

section
/-! The register window: where the registers stand, what their words are made of, and what the search results
show while no search runs; then the statements about reads, writes and reset. -/

namespace Sys2Proof.Machine

/-! ### Values of register words -/

/-- A field placed at bit 0. -/
theorem toNat_place_zero {n : Nat} (v : BitVec n) (hn : n ≤ 32) : (place v 0).toNat = v.toNat := by
  simpa using toNat_place (lo := 0) v hn

/-- The STATUS word (rule R20). -/
theorem toNat_statusWord (b : Block) :
    (statusWord b).toNat = b.busy.toNat + 2 * b.done.toNat + 4 * b.err.toNat + 8 * b.ovr.toNat +
      16 * b.errCode.toNat := by
  have h0 : (place (BitVec.ofBool b.busy) 0).toNat = b.busy.toNat := by
    rw [toNat_place_zero _ (by decide), BitVec.toNat_ofBool]
  have hbusy := Bool.toNat_le b.busy
  have hdone := Bool.toNat_le b.done
  have herr := Bool.toNat_le b.err
  have hovr := Bool.toNat_le b.ovr
  have h1 := toNat_place_or (lo := 1) (BitVec.ofBool b.done) _ (by decide) (h0.trans_lt (by omega))
  rw [h0, BitVec.toNat_ofBool] at h1
  have h2 := toNat_place_or (lo := 2) (BitVec.ofBool b.err) _ (by decide) (h1.trans_lt (by omega))
  rw [h1, BitVec.toNat_ofBool] at h2
  have h3 := toNat_place_or (lo := 3) (BitVec.ofBool b.ovr) _ (by decide) (h2.trans_lt (by omega))
  rw [h2, BitVec.toNat_ofBool] at h3
  rw [statusWord, BitVec.or_assoc, BitVec.or_assoc, BitVec.or_assoc,
    toNat_place_or _ _ (by decide) (h3.trans_lt (by omega)), h3]
  omega

/-- CAPS (rule R27), for parameters that fit their fields. -/
theorem toNat_capsWord {p : Params} (hpairs : p.maxPairs < 256) (hlanes : p.numLanes < 256) :
    (capsWord p).toNat = 65536 * p.tableSet.toNat + 256 * p.maxPairs + p.numLanes := by
  have hlow : (place (BitVec.ofNat 8 p.maxPairs) 8 ||| place (BitVec.ofNat 8 p.numLanes) 0).toNat =
      256 * p.maxPairs + p.numLanes := by
    rw [toNat_two_bytes, BitVec.toNat_ofNat, BitVec.toNat_ofNat, Nat.mod_eq_of_lt hpairs,
      Nat.mod_eq_of_lt hlanes]
  rw [capsWord, BitVec.or_assoc, toNat_place_or _ _ (by decide) (hlow.trans_lt (by omega)), hlow]
  omega

/-! ### Reserved bits -/

/-- A field sets no bit outside a mask that covers its place. -/
theorem place_and_not {n lo : Nat} {m : Word} (v : BitVec n) (hm : place (BitVec.allOnes n) lo &&& ~~~m = 0) :
    place v lo &&& ~~~m = 0 := by
  have hv : place v lo = place v lo &&& place (BitVec.allOnes n) lo := by
    simp only [place]
    rw [← BitVec.shiftLeft_and_distrib, ← BitVec.setWidth_and, BitVec.and_allOnes]
  rw [hv, BitVec.and_assoc, hm]
  exact BitVec.and_zero

theorem or_and_not {x y m : Word} (hx : x &&& ~~~m = 0) (hy : y &&& ~~~m = 0) : (x ||| y) &&& ~~~m = 0 := by
  rw [BitVec.and_or_distrib_right, hx, hy]
  exact BitVec.or_zero

/-! ### Search results while no search runs -/

theorem searchResult_idle (v : Word) {s : State} (hb : s.block.busy = false) : searchResult v s = (v, s) := by
  simp [searchResult, hb]

theorem readReg_rkey_idle {s : State} (hb : s.block.busy = false) : readReg .rkey s = readRkey s := by
  simp [readReg, hb]

/-- RKEY below MATCHCNT shows the entry of RESULT_LIST at RIDX (rule R29). -/
theorem readRkey_below {s : State} (hinv : s.Inv) (hb : s.block.busy = false)
    (hlt : s.block.ridx.toNat < s.block.matchCnt.toNat) :
    ∃ hj : s.block.ridx.toNat < (resultList s.block.matchMap).length,
      readRkey s = (place 1#1 31 ||| place (resultList s.block.matchMap)[s.block.ridx.toNat] 0, s) := by
  have hj : s.block.ridx.toNat < (resultList s.block.matchMap).length := by
    rwa [hinv.block.idle_matchCnt hb] at hlt
  refine ⟨hj, ?_⟩
  rw [readRkey, if_pos hlt, List.getElem?_eq_getElem hj]

/-- RKEY at or above MATCHCNT is 0 (rule R29). -/
theorem readRkey_above {s : State} (hle : s.block.matchCnt.toNat ≤ s.block.ridx.toNat) :
    readRkey s = (0#32, s) := by
  rw [readRkey, if_neg (by omega)]

theorem filter_resultList (m : MatchMap) (P : Key → Bool) :
    (resultList m).filter P = allKeys.filter fun j => m.getLsbD j.toNat && P j := by
  rw [resultList, List.filter_filter]
  exact List.filter_congr fun _ _ => Bool.and_comm _ _

/-- In an ascending list exactly `j` elements are below the `j`-th. -/
theorem length_filter_lt_getElem {l : List Key} (hl : l.Pairwise fun a b => a.toNat < b.toNat) {j : Nat}
    (hj : j < l.length) : (l.filter fun k => decide (k.toNat < l[j].toNat)).length = j := by
  have below : ∀ k ∈ l.take j, decide (k.toNat < l[j].toNat) = true := by
    intro k hk
    obtain ⟨i, hi, rfl⟩ := List.mem_take_iff_getElem.mp hk
    exact decide_eq_true (List.pairwise_iff_getElem.mp hl i j (by omega) hj (by omega))
  have above : ∀ k ∈ l.drop j, ¬ decide (k.toNat < l[j].toNat) = true := by
    intro k hk
    obtain ⟨i, hi, rfl⟩ := List.mem_drop_iff_getElem.mp hk
    rw [decide_eq_true_eq, Nat.not_lt]
    rcases Nat.eq_zero_or_pos i with rfl | hpos
    · exact Nat.le_refl _
    · exact Nat.le_of_lt (List.pairwise_iff_getElem.mp hl j (j + i) hj (by omega) (by omega))
  calc (l.filter fun k => decide (k.toNat < l[j].toNat)).length
      = ((l.take j ++ l.drop j).filter fun k => decide (k.toNat < l[j].toNat)).length := by
        rw [List.take_append_drop]
    _ = (l.take j).length := by
        rw [List.filter_append, List.filter_eq_self.mpr below, List.filter_eq_nil_iff.mpr above, List.append_nil]
    _ = j := List.length_take_of_le (by omega)

/-- Bit `b` of word `i` of the match map is MATCH[32·i + b] (rule R32). -/
theorem getLsbD_matchMapWord (m : MatchMap) (i : Nat) {b : Nat} (hb : b < 32) :
    (matchMapWord m i).getLsbD b = m.getLsbD (32 * i + b) := by
  simp [matchMapWord, hb]

/-! ### CTRL and RIDX -/

/-- CTRL reads back the bit that was stored (rule R21). -/
theorem place_bit_zero (w : Word) : place (BitVec.ofBool (w.getLsbD 0)) 0 = w &&& 1 := by
  apply BitVec.eq_of_toNat_eq
  rw [toNat_place_zero _ (by decide), BitVec.toNat_ofBool, BitVec.toNat_and]
  show (w.toNat.testBit 0).toNat = w.toNat &&& 1
  rw [Nat.and_one_is_mod, Nat.testBit_zero]
  rcases Nat.mod_two_eq_zero_or_one w.toNat with h | h <;> rw [h] <;> rfl

/-- RIDX reads back the ten bits that were stored (rule R28). -/
theorem place_low_ten (w : Word) : place (w.extractLsb' 0 10) 0 = w &&& 0x3FF := by
  apply BitVec.eq_of_toNat_eq
  rw [toNat_place_zero _ (by decide), BitVec.toNat_and]
  show (w.toNat >>> 0) % 2 ^ 10 = w.toNat &&& (2 ^ 10 - 1)
  rw [Nat.and_two_pow_sub_one_eq_mod, Nat.shiftRight_zero]

/-- A command, dropped or accepted, changes neither CTRL nor RIDX. -/
theorem WrittenAs.cmd_keeps {p : Params} {b b' : Block} {w : Word} (hw : WrittenAs p b .cmd w b') :
    b'.ie = b.ie ∧ b'.ridx = b.ridx := by
  cases hw with
  | dropped w hbusy => exact ⟨rfl, rfl⟩
  | accepted w b' hidle ha => exact ha.keeps.2.2
  | ignored r w hr => exact ⟨rfl, rfl⟩

/-! ### The window -/

/-- The words of the window that hold no register (rule R45). -/
theorem regAtWord_eq_none_iff (n : Nat) : regAtWord n = none ↔ (11 ≤ n ∧ n < 64) ∨ 160 ≤ n := by
  unfold regAtWord
  split
  case h_12 =>
    split
    · exact iff_of_false (Option.some_ne_none _) (by omega)
    · split
      · exact iff_of_false (Option.some_ne_none _) (by omega)
      · exact iff_of_true rfl (by simp only [imp_false] at *; omega)
  all_goals exact iff_of_false (Option.some_ne_none _) (by decide)

/-- Below the end of the window, the aligned offsets that are no register's are those of rule R45. -/
theorem unmapped_iff {offset : Nat} (halign : offset % 4 = 0) :
    (0x02C ≤ offset ∧ offset ≤ 0x0FC) ∨ 0x280 ≤ offset ↔ ∀ r : Reg, offset ≠ r.offset :=
  calc (0x02C ≤ offset ∧ offset ≤ 0x0FC) ∨ 0x280 ≤ offset
    _ ↔ regAtWord (offset / 4) = none := by rw [regAtWord_eq_none_iff]; omega
    _ ↔ regAt offset = none := by rw [regAt, if_pos halign]
    _ ↔ ∀ r, regAt offset ≠ some r := Option.eq_none_iff_forall_ne_some
    _ ↔ ∀ r : Reg, offset ≠ r.offset := forall_congr' fun r => not_congr (regAt_eq_some_iff offset r)

/-- An access outside the window does not reach the block (rule R44). -/
theorem performAccess_outside {a : BusAccess} {s : State}
    (hout : a.addr < s.cfg.base ∨ s.cfg.base + 0xFFF < a.addr) :
    performAccess a s = .next (record a .notSelected s) := by
  have hw : ¬ inWindow s.cfg a.addr = true := by
    simp only [inWindow, Bool.and_eq_true, decide_eq_true_eq]
    omega
  rw [performAccess, if_neg hw]

/-! ### The obligations about the window and reset -/

/-- Settles O32: `regAt` finds each register at its own offset alone, and the words of the window that hold none
are 11 to 63 and those from 160 on. -/
theorem windowMapsTheListedOffsets : Obligations.WindowMapsTheListedOffsets := by
  unfold Obligations.WindowMapsTheListedOffsets
  exact ⟨regAt_eq_some_iff, fun _ _ halign => unmapped_iff halign, fun _ _ hout => performAccess_outside hout⟩

/-- Settles O35: each register's word is built of its fields, and every field lies within the mask. -/
theorem reservedBitsReadZero : Obligations.ReservedBitsReadZero := by
  unfold Obligations.ReservedBitsReadZero
  intro r s hinv hquiet
  have idle : r.isSearchResult = true → s.block.busy = false := fun hr => by
    simpa [State.resultHazard, hr] using hquiet
  cases r with
  | cmd => exact BitVec.zero_and
  | status =>
    have hlow := or_and_not (or_and_not (or_and_not
      (place_and_not s.block.errCode (lo := 4) (m := Reg.status.fieldMask) (by decide))
      (place_and_not (BitVec.ofBool s.block.ovr) (lo := 3) (by decide)))
      (place_and_not (BitVec.ofBool s.block.err) (lo := 2) (by decide)))
      (place_and_not (BitVec.ofBool s.block.done) (lo := 1) (by decide))
    exact or_and_not hlow (place_and_not (BitVec.ofBool s.block.busy) (by decide))
  | ctrl => exact place_and_not _ (by decide)
  | dout => exact place_and_not _ (by decide)
  | subkeys => exact or_and_not (place_and_not _ (by decide)) (place_and_not _ (by decide))
  | paircnt => exact place_and_not _ (by decide)
  | caps =>
    exact or_and_not (or_and_not (place_and_not _ (by decide)) (place_and_not _ (by decide)))
      (place_and_not _ (by decide))
  | ridx => exact place_and_not _ (by decide)
  | pair i =>
    exact or_and_not (m := 0x0000FFFF) (place_and_not _ (by decide)) (place_and_not _ (by decide))
  | matchcnt =>
    rw [readReg, searchResult_idle _ (idle rfl)]
    exact place_and_not _ (by decide)
  | elapsed => exact BitVec.and_zero
  | matchmap w =>
    show _ &&& ~~~0xFFFFFFFF#32 = 0
    exact BitVec.and_zero
  | rkey =>
    have hb := idle rfl
    rw [readReg_rkey_idle hb]
    rcases Nat.lt_or_ge s.block.ridx.toNat s.block.matchCnt.toNat with hlt | hge
    · obtain ⟨hj, e⟩ := readRkey_below hinv hb hlt
      rw [e]
      exact or_and_not (place_and_not _ (by decide)) (place_and_not _ (by decide))
    · rw [readRkey_above hge]
      exact BitVec.zero_and

/-- Settles O40: RESULT_LIST is ascending, so its entry at RIDX has exactly RIDX matching keys below it. -/
theorem rkeyAndMatchmapShowTheMatches : Obligations.RkeyAndMatchmapShowTheMatches := by
  unfold Obligations.RkeyAndMatchmapShowTheMatches
  intro s hinv hb
  rw [readReg_rkey_idle hb]
  refine ⟨fun hlt => ?_, fun hle => ?_, fun w b hlt => ?_⟩
  · obtain ⟨hj, e⟩ := readRkey_below hinv hb hlt
    refine ⟨(resultList s.block.matchMap)[s.block.ridx.toNat], ?_, ?_, ?_⟩
    · have hk : ∀ k : Key, (place k 0).toNat = k.toNat := fun k => toNat_place_zero k (by decide)
      rw [e, toNat_place_or _ _ (by decide) (by rw [hk]; omega), hk]
      rfl
    · exact (mem_resultList _ _).mp (List.getElem_mem hj)
    · rw [← filter_resultList _ fun j => decide (j.toNat < _)]
      exact length_filter_lt_getElem (resultList_ascending _) hj
  · rw [readRkey_above hle]
    rfl
  · rw [readReg, searchResult_idle _ hb]
    exact getLsbD_matchMapWord _ _ hlt

/-- Settles O36: each register's word is its fields side by side. -/
theorem registersReadTheirFields : Obligations.RegistersReadTheirFields := by
  unfold Obligations.RegistersReadTheirFields
  intro s
  refine ⟨rfl, toNat_statusWord s.block, ?_, toNat_place_zero _ (by decide), toNat_two_bytes _ _,
    toNat_place_zero _ (by decide), toNat_place_zero _ (by decide), fun hinv => ?_,
    fun i => toNat_two_bytes _ _, fun hinv i hi => ?_, fun hb => ?_⟩
  · exact (toNat_place_zero _ (by decide)).trans (BitVec.toNat_ofBool _)
  · obtain ⟨⟨-, hlanes⟩, ⟨-, hpairs⟩, -⟩ := hinv.cfg
    exact toNat_capsWord (by omega) (by omega)
  · obtain ⟨hP, hC⟩ := hinv.block.pairs_above_zero i.val (hinv.block.pairCnt_le.trans hi)
    rw [readReg, pairWord, hP, hC]
    rfl
  · rw [readReg, readReg, searchResult_idle _ hb, searchResult_idle _ hb]
    exact ⟨toNat_place_zero _ (by decide), rfl⟩

/-- Settles O37: a write to STATUS is `writeStatus`, whatever BUSY is. -/
theorem statusWriteClearsWhatIsWrittenOne : Obligations.StatusWriteClearsWhatIsWrittenOne := by
  unfold Obligations.StatusWriteClearsWhatIsWrittenOne
  intro w s
  refine ⟨writeStatus w s.block, rfl, rfl, ?_, ?_, writeStatus_errCode _ w, ?_⟩
  · cases h : w.getLsbD 1 <;> simp [h, -BitVec.getLsbD_eq_getElem]
  · cases h : w.getLsbD 2 <;> simp [h, -BitVec.getLsbD_eq_getElem]
  · cases h : w.getLsbD 3 <;> simp [h, -BitVec.getLsbD_eq_getElem]

/-- Settles O38: CTRL and RIDX are stored and read back, and a command, dropped or accepted, changes neither. -/
theorem controlAndIndexAreStored : Obligations.ControlAndIndexAreStored := by
  unfold Obligations.ControlAndIndexAreStored
  refine ⟨fun w s => ⟨_, rfl, rfl, place_bit_zero w⟩, fun w s => ⟨_, rfl, ?_, place_low_ten w⟩,
    fun p => ⟨rfl, rfl⟩, fun w s t h => ?_⟩
  · rw [BitVec.setWidth_eq_extractLsb' (by decide)]
  · obtain ⟨b, hw, hwritten⟩ := writeReg_writtenAs .cmd w s
    obtain rfl : { s with block := b } = t := Host.Outcome.next.inj (hw.symm.trans h)
    exact hwritten.cmd_keeps

/-- Settles O43: the reset block, field by field; with no match RKEY and the match map read 0. -/
theorem resetLeavesTheSpecsState : Obligations.ResetLeavesTheSpecsState := by
  unfold Obligations.ResetLeavesTheSpecsState
  intro p
  have hzeros : ∀ i, (List.replicate p.maxPairs (0 : Byte)).getD i 0 = 0 := fun i => by
    rw [List.getD_eq_getElem?_getD, List.getElem?_replicate]
    split <;> rfl
  refine ⟨BitVec.eq_of_toNat_eq (toNat_statusWord _), rfl, rfl, rfl, rfl, rfl, List.length_replicate, List.length_replicate,
    fun i => ⟨hzeros i, hzeros i⟩, rfl, fun k => BitVec.getLsbD_zero, rfl, rfl, rfl, rfl, rfl,
    fun s hs => ⟨?_, fun w => ?_⟩, ?_⟩
  · have hb : s.block.busy = false := by rw [hs]; rfl
    rw [readReg_rkey_idle hb, readRkey_above (by rw [hs]; rfl)]
    rfl
  · have hb : s.block.busy = false := by rw [hs]; rfl
    rw [readReg, searchResult_idle _ hb, hs]
    exact BitVec.extractLsb'_zero
  · rintro s rfl
    exact ⟨rfl, rfl⟩

/-- Settles O47: the default parameters are legal, and the reset block meets the invariant under legal ones. -/
theorem resetMeetsTheInvariant : Obligations.ResetMeetsTheInvariant := by
  have hcfg : defaultParams.Valid := by decide
  exact ⟨hcfg, reset_blockInv hcfg⟩

end Sys2Proof.Machine
end

section
/-! Accesses of the register window that change no state of the block: refused accesses, writes to read-only
registers, and reads outside the search-result hazard. -/

namespace Sys2Proof.Machine

/-! ### Refused accesses -/

/-- Every register stands at a multiple of 4 (rule R18). -/
theorem offset_mod_four (r : Reg) : r.offset % 4 = 0 := by
  by_contra hmis
  have hnone : regAt r.offset = none := if_neg hmis
  rw [regAt_offset] at hnone
  cases hnone

/-- Rules R41 and R45: an access of another width, or misaligned, or at no register's address, moves no
register. -/
theorem admitted_eq_none {p : Params} {a : BusAccess} (hbase : p.base ≤ a.addr)
    (hrefused : a.width ≠ .word ∨ (a.addr - p.base) % 4 ≠ 0 ∨ ∀ r : Reg, a.addr ≠ regAddr p r) :
    admitted p a = none := by
  refine Option.eq_none_iff_forall_ne_some.mpr fun r hr => ?_
  obtain ⟨hwidth, hoffset⟩ := admitted_eq_some hr
  rcases hrefused with hnarrow | hmisaligned | hunmapped
  · exact hnarrow hwidth
  · exact hmisaligned (hoffset ▸ offset_mod_four r)
  · exact hunmapped r (by rw [regAddr, ← hoffset, Nat.add_sub_cancel' hbase])

/-- Rule R46: an access in the window that moves no register is answered with BusError alone. -/
theorem performAccess_of_admitted_eq_none {a : BusAccess} {s : State} (hlow : s.cfg.base ≤ a.addr)
    (hhigh : a.addr ≤ s.cfg.base + 0xFFF) (hnone : admitted s.cfg a = none) :
    performAccess a s = .next (record a (.error a.addr) s) := by
  have hin : inWindow s.cfg a.addr = true := by
    rw [inWindow, decide_eq_true hlow, decide_eq_true hhigh]
    rfl
  rw [performAccess, if_pos hin, hnone]

/-! ### Writes to read-only registers -/

/-- Rule R43: the four registers that take writes are CMD, STATUS, CTRL and RIDX. -/
theorem writeReg_readOnly {r : Reg} (w : Word) (s : State) (hr : r ∉ [Reg.cmd, .status, .ctrl, .ridx]) :
    writeReg r w s = .next s := by
  cases r with
  | cmd | status | ctrl | ridx => exact absurd (by decide) hr
  | _ => rfl

/-! ### Reads outside the search-result hazard -/

/-- The invariant does not speak of the count of draws. -/
theorem inv_with_draws {s : State} (hinv : s.Inv) (n : Nat) : ({ s with draws := n } : State).Inv :=
  ⟨hinv.cfg, hinv.block⟩

/-- Outside the hazard a read takes no draw, at whatever count of draws (rules R43 and R121). For RKEY the
invariant is needed: RESULT_LIST has an entry at every index below MATCHCNT. -/
theorem readReg_quiet {r : Reg} {s : State} (hinv : s.Inv) (hquiet : s.resultHazard r = false) (n : Nat) :
    readReg r { s with draws := n } = ((readReg r s).1, { s with draws := n }) := by
  have idle : r.isSearchResult = true → s.block.busy = false := fun hr => by
    simpa [State.resultHazard, hr] using hquiet
  have result (v : Word) (hb : s.block.busy = false) :
      searchResult v { s with draws := n } = ((searchResult v s).1, { s with draws := n }) := by
    rw [searchResult_idle v hb, searchResult_idle v (s := { s with draws := n }) hb]
  cases r with
  | matchcnt | elapsed | matchmap _ => exact result _ (idle rfl)
  | rkey =>
    have hb := idle rfl
    rw [readReg_rkey_idle hb, readReg_rkey_idle (s := { s with draws := n }) hb]
    rcases Nat.lt_or_ge s.block.ridx.toNat s.block.matchCnt.toNat with hlt | hge
    · obtain ⟨_, e⟩ := readRkey_below hinv hb hlt
      obtain ⟨_, e'⟩ := readRkey_below (inv_with_draws hinv n) hb hlt
      rw [e, e']
    · rw [readRkey_above hge, readRkey_above (s := { s with draws := n }) hge]
  | _ => rfl

/-! ### The obligations about reads, ignored writes and refused accesses -/

/-- Settles O33: a refused access moves no register, so that the bus error is its whole effect. -/
theorem refusedAccessIsABusError : Obligations.RefusedAccessIsABusError := by
  unfold Obligations.RefusedAccessIsABusError
  intro a s hlow hhigh hrefused
  exact performAccess_of_admitted_eq_none hlow hhigh (admitted_eq_none hlow hrefused)

/-- Settles O34: a read changes at most the count of draws, and outside the hazard it takes no draw. -/
theorem readsHaveNoSideEffect : Obligations.ReadsHaveNoSideEffect := by
  unfold Obligations.ReadsHaveNoSideEffect
  intro r s
  refine ⟨readReg_state r s, fun hinv hquiet => ⟨?_, fun n => ?_⟩⟩
  · exact congrArg Prod.snd (readReg_quiet hinv hquiet s.draws)
  · rw [readReg_quiet hinv hquiet n]

/-- Settles O39: the access reaches the register, whose write does nothing. -/
theorem readOnlyRegistersIgnoreWrites : Obligations.ReadOnlyRegistersIgnoreWrites := by
  unfold Obligations.ReadOnlyRegistersIgnoreWrites
  intro r w s hr
  rw [performAccess_write, writeReg_readOnly w s hr]
  rfl

end Sys2Proof.Machine
end

section
/-! The command words: what a field of a word is, what a format requires of its reserved bits, and what these say
of the decoder, the encoder, the (mask, match) table and the illegal words (rules R54 to R58). -/

namespace Sys2Proof.Machine

/-! ### Fields of a word -/

@[simp] theorem extractLsb'_place_same {n lo : Nat} (v : BitVec n) (h : n + lo ≤ 32) :
    (place v lo).extractLsb' lo n = v := by
  ext i hi
  rw [BitVec.getElem_extractLsb', place, BitVec.getLsbD_shiftLeft, BitVec.getLsbD_setWidth,
    Nat.add_sub_cancel_left, BitVec.getLsbD_eq_getElem hi]
  simp [show lo + i < 32 by omega, show i < 32 by omega]

@[simp] theorem extractLsb'_place_disjoint {n lo start len : Nat} (v : BitVec n)
    (h : start + len ≤ lo ∨ lo + n ≤ start) : (place v lo).extractLsb' start len = 0 := by
  ext i hi
  rw [BitVec.getElem_extractLsb', place, BitVec.getLsbD_shiftLeft, BitVec.getLsbD_setWidth]
  rcases h with hbelow | habove
  · simp [show start + i < lo by omega]
  · rw [BitVec.getLsbD_of_ge v _ (by omega)]
    simp

/-- A field put back at its place is the word under the field's mask. -/
theorem place_extractLsb' (w : Word) (n lo : Nat) :
    place (w.extractLsb' lo n) lo = w &&& place (BitVec.allOnes n) lo := by
  ext i hi
  simp only [place, BitVec.getElem_and, BitVec.getElem_shiftLeft, BitVec.getElem_setWidth,
    BitVec.getLsbD_extractLsb', BitVec.getLsbD_allOnes]
  by_cases hlt : i < lo
  · simp [hlt]
  · simp [hlt, Nat.add_sub_cancel' (Nat.le_of_not_lt hlt), BitVec.getLsbD_eq_getElem hi, Bool.and_comm]

theorem extractLsb'_eq_zero_iff (w : Word) {n lo : Nat} (h : n + lo ≤ 32) :
    w.extractLsb' lo n = 0 ↔ w &&& place (BitVec.allOnes n) lo = 0 := by
  rw [← place_extractLsb']
  refine ⟨fun h0 => by simp [h0, place], fun h0 => ?_⟩
  rw [← extractLsb'_place_same (w.extractLsb' lo n) h, h0]
  exact BitVec.extractLsb'_zero

/-- Two fields are 0 exactly if the word is 0 under both their masks. -/
theorem extractLsb'_pair_eq_zero_iff (w : Word) {n lo n' lo' : Nat} (h : n + lo ≤ 32) (h' : n' + lo' ≤ 32) :
    w.extractLsb' lo n = 0 ∧ w.extractLsb' lo' n' = 0 ↔
      w &&& (place (BitVec.allOnes n) lo ||| place (BitVec.allOnes n') lo') = 0 := by
  rw [extractLsb'_eq_zero_iff w h, extractLsb'_eq_zero_iff w h', BitVec.and_or_distrib_left]
  exact BitVec.or_eq_zero_iff.symm

/-- A word that is 0 under a mask stands whole under the mask's complement. -/
theorem and_not_of_and_eq_zero {w m : Word} (h : w &&& m = 0) : w &&& ~~~m = w := by
  have hsplit : w &&& (m ||| ~~~m) = w := by rw [BitVec.or_not_self, BitVec.and_allOnes]
  rw [BitVec.and_or_distrib_left, h] at hsplit
  exact BitVec.zero_or.symm.trans hsplit

theorem fieldOp_toNat (w : Word) : (fieldOp w).toNat = (w >>> 28).toNat := by
  rw [fieldOp, BitVec.extractLsb'_toNat, BitVec.toNat_ushiftRight, Nat.shiftRight_eq_div_pow]
  exact Nat.mod_eq_of_lt (by have := w.isLt; omega)

theorem fieldSel_toNat (w : Word) : (fieldSel w).toNat = (w >>> 24).toNat % 16 :=
  BitVec.extractLsb'_toNat ..

/-! ### What a format decodes, by the mask of its reserved bits (rule R55) -/

/-- What a check answers, the condition put in another form. -/
theorem check_eq_ok_iff {ε α : Type} {c c' : Prop} [Decidable c] {e : ε} {a a' : α} (hc : c ↔ c') :
    (if c then Except.ok a else Except.error e) = .ok a' ↔ c' ∧ a' = a := by
  rw [← hc]
  by_cases h : c <;> simp [h, eq_comm]

theorem formatZ_eq_ok_iff {w : Word} {i j : Instr} :
    formatZ w i = .ok j ↔ w &&& 0x0FFFFFFF = 0 ∧ j = i :=
  check_eq_ok_iff (extractLsb'_eq_zero_iff w (by decide))

theorem formatK_eq_ok_iff {w : Word} {mk : Key → Byte → Instr} {j : Instr} :
    formatK w mk = .ok j ↔ w &&& 0x0C00FF00 = 0 ∧ j = mk (fieldKey w) (fieldData w) :=
  check_eq_ok_iff (extractLsb'_pair_eq_zero_iff w (by decide) (by decide))

theorem formatKS_eq_ok_iff {w : Word} {mk : Key → Instr} {j : Instr} :
    formatKS w mk = .ok j ↔ w &&& 0x0C00FFFF = 0 ∧ j = mk (fieldKey w) :=
  check_eq_ok_iff (extractLsb'_pair_eq_zero_iff w (by decide) (by decide))

theorem formatR_eq_ok_iff {w : Word} {mk : Byte → Byte → Instr} {j : Instr} :
    formatR w mk = .ok j ↔ w &&& 0x0FFF0000 = 0 ∧ j = mk (fieldData w) (fieldAux w) :=
  check_eq_ok_iff (extractLsb'_eq_zero_iff w (by decide))

theorem formatU_eq_ok_iff {w : Word} {mk : BitVec 10 → Instr} {j : Instr} :
    formatU w mk = .ok j ↔ w &&& 0x00FFFC00 = 0 ∧ j = mk (fieldVal w) :=
  check_eq_ok_iff (extractLsb'_eq_zero_iff w (by decide))

theorem formatS_eq_ok_iff {w : Word} {i j : Instr} :
    formatS w i = .ok j ↔ w &&& 0x00FFFFFF = 0 ∧ j = i :=
  check_eq_ok_iff (extractLsb'_eq_zero_iff w (by decide))

/-! ### The encoder on the fields of a word -/

section
variable {w : Word} {op sel : BitVec 4}

theorem encodeZ_fields (hop : fieldOp w = op) (h : w &&& 0x0FFFFFFF = 0) : place op 28 = w := by
  rw [← hop, fieldOp, place_extractLsb']
  exact and_not_of_and_eq_zero h

theorem encodeK_fields (hop : fieldOp w = op) (h : w &&& 0x0C00FF00 = 0) :
    encodeK op (fieldKey w) (fieldData w) = w := by
  simp only [encodeK, ← hop, fieldOp, fieldKey, fieldData, place_extractLsb', ← BitVec.and_or_distrib_left]
  exact and_not_of_and_eq_zero h

theorem encodeKS_fields (hop : fieldOp w = op) (h : w &&& 0x0C00FFFF = 0) :
    place op 28 ||| place (fieldKey w) 16 = w := by
  simp only [← hop, fieldOp, fieldKey, place_extractLsb', ← BitVec.and_or_distrib_left]
  exact and_not_of_and_eq_zero h

theorem encodeR_fields (hop : fieldOp w = op) (h : w &&& 0x0FFF0000 = 0) :
    encodeR op (fieldData w) (fieldAux w) = w := by
  simp only [encodeR, ← hop, fieldOp, fieldData, fieldAux, place_extractLsb', ← BitVec.and_or_distrib_left]
  exact and_not_of_and_eq_zero h

theorem encodeU_fields (hop : fieldOp w = op) (hsel : fieldSel w = sel) (h : w &&& 0x00FFFC00 = 0) :
    encodeU op sel (fieldVal w) = w := by
  simp only [encodeU, ← hop, ← hsel, fieldOp, fieldSel, fieldVal, place_extractLsb',
    ← BitVec.and_or_distrib_left]
  exact and_not_of_and_eq_zero h

theorem encodeS_fields (hop : fieldOp w = op) (hsel : fieldSel w = sel) (h : w &&& 0x00FFFFFF = 0) :
    place op 28 ||| place sel 24 = w := by
  simp only [← hop, ← hsel, fieldOp, fieldSel, place_extractLsb', ← BitVec.and_or_distrib_left]
  exact and_not_of_and_eq_zero h

end

/-! ### Encoding what was decoded -/

theorem encode_of_decodePerm {w : Word} {i : Instr} (hop : fieldOp w = 5) (h : decodePerm w = .ok i) :
    encode i = w := by
  unfold decodePerm at h
  split at h
  case h_7 => cases h
  all_goals
    rename_i hsel
    obtain ⟨hreserved, rfl⟩ := formatU_eq_ok_iff.mp h
    exact encodeU_fields hop (BitVec.eq_of_toNat_eq hsel) hreserved

theorem encode_of_decodeSbox {w : Word} {i : Instr} (hop : fieldOp w = 6) (h : decodeSbox w = .ok i) :
    encode i = w := by
  unfold decodeSbox at h
  split at h
  case h_3 => cases h
  all_goals
    rename_i hsel
    obtain ⟨hreserved, rfl⟩ := formatU_eq_ok_iff.mp h
    exact encodeU_fields hop (BitVec.eq_of_toNat_eq hsel) hreserved

theorem encode_of_decode {w : Word} {i : Instr} (h : decode w = .ok i) : encode i = w := by
  have op_eq {n : BitVec 4} (hop : (fieldOp w).toNat = n.toNat) : fieldOp w = n := BitVec.eq_of_toNat_eq hop
  unfold decode at h
  split at h
  case h_1 hop | h_9 hop =>
    obtain ⟨hreserved, rfl⟩ := formatZ_eq_ok_iff.mp h
    exact encodeZ_fields (op_eq hop) hreserved
  case h_2 hop | h_3 hop =>
    obtain ⟨hreserved, rfl⟩ := formatK_eq_ok_iff.mp h
    exact encodeK_fields (op_eq hop) hreserved
  case h_4 hop =>
    obtain ⟨hreserved, rfl⟩ := formatKS_eq_ok_iff.mp h
    exact encodeKS_fields (op_eq hop) hreserved
  case h_5 hop | h_10 hop =>
    obtain ⟨hreserved, rfl⟩ := formatR_eq_ok_iff.mp h
    exact encodeR_fields (op_eq hop) hreserved
  case h_6 hop => exact encode_of_decodePerm (op_eq hop) h
  case h_7 hop => exact encode_of_decodeSbox (op_eq hop) h
  case h_8 hop =>
    obtain ⟨hreserved, rfl⟩ := formatU_eq_ok_iff.mp h
    exact encodeU_fields (op_eq hop) (by simp) hreserved
  case h_11 hop =>
    obtain ⟨hreserved, rfl⟩ := formatS_eq_ok_iff.mp h
    exact encodeS_fields (op_eq hop) (by simp) hreserved
  case h_12 => cases h

/-! ### Decoding what was encoded -/

/-- The instruction of `i`'s row of the table with its operands read from the fields of `w`. -/
def readFields (w : Word) : Instr → Instr
  | .nop => .nop
  | .enc _ _ => .enc (fieldKey w) (fieldData w)
  | .dec _ _ => .dec (fieldKey w) (fieldData w)
  | .ksched _ => .ksched (fieldKey w)
  | .round _ _ => .round (fieldData w) (fieldAux w)
  | .permP10 _ => .permP10 (fieldVal w)
  | .permP8 _ => .permP8 (fieldVal w)
  | .permIp _ => .permIp (fieldVal w)
  | .permIpInv _ => .permIpInv (fieldVal w)
  | .permEp _ => .permEp (fieldVal w)
  | .permP4 _ => .permP4 (fieldVal w)
  | .sboxA _ => .sboxA (fieldVal w)
  | .sboxB _ => .sboxB (fieldVal w)
  | .rotl5 _ _ => .rotl5 (fieldVal w) (fieldSel w).toNat
  | .pclr => .pclr
  | .padd _ _ => .padd (fieldData w) (fieldAux w)
  | .search _ => .search ((fieldSel w).toNat + 1)

/-- A field that a row's mask covers has the row's value in every word that matches the row. -/
theorem extractLsb'_of_and_eq {w m v : Word} (h : w &&& m = v) (lo n : Nat)
    (hm : m.extractLsb' lo n = BitVec.allOnes n) : w.extractLsb' lo n = v.extractLsb' lo n := by
  rw [← h, BitVec.extractLsb'_and, hm, BitVec.and_allOnes]

/-- Reserved bits that a row's mask covers are 0 in every word that matches the row. -/
theorem and_eq_zero_of_and_eq {w m v r : Word} (h : w &&& m = v) (hr : m &&& r = r ∧ v &&& r = 0) :
    w &&& r = 0 := by
  rw [← hr.1, ← BitVec.and_assoc, h, hr.2]

/-- Every row's mask covers OP. -/
theorem opcodeRow_mask_op (i : Instr) : (opcodeRow i).mask.extractLsb' 28 4 = BitVec.allOnes 4 := by
  cases i <;> simp [opcodeRow]

/-- A word that matches a row decodes to that row's instruction. -/
theorem decode_of_matches {w : Word} (i : Instr) (h : (opcodeRow i).matchesWord w = true) :
    decode w = .ok (readFields w i) := by
  have hw : w &&& (opcodeRow i).mask = (opcodeRow i).value := eq_of_beq h
  have hop : fieldOp w = fieldOp (opcodeRow i).value := extractLsb'_of_and_eq hw 28 4 (opcodeRow_mask_op i)
  rw [decode, hop]
  cases i
  all_goals simp only [opcodeRow] at hw ⊢
  case nop | pclr => exact formatZ_eq_ok_iff.mpr ⟨and_eq_zero_of_and_eq hw (by decide), rfl⟩
  case enc | dec => exact formatK_eq_ok_iff.mpr ⟨and_eq_zero_of_and_eq hw (by decide), rfl⟩
  case ksched => exact formatKS_eq_ok_iff.mpr ⟨and_eq_zero_of_and_eq hw (by decide), rfl⟩
  case round | padd => exact formatR_eq_ok_iff.mpr ⟨and_eq_zero_of_and_eq hw (by decide), rfl⟩
  case permP10 | permP8 | permIp | permIpInv | permEp | permP4 =>
    show decodePerm w = _
    rw [decodePerm, fieldSel, extractLsb'_of_and_eq hw 24 4 (by decide)]
    exact formatU_eq_ok_iff.mpr ⟨and_eq_zero_of_and_eq hw (by decide), rfl⟩
  case sboxA | sboxB =>
    show decodeSbox w = _
    rw [decodeSbox, fieldSel, extractLsb'_of_and_eq hw 24 4 (by decide)]
    exact formatU_eq_ok_iff.mpr ⟨and_eq_zero_of_and_eq hw (by decide), rfl⟩
  case rotl5 => exact formatU_eq_ok_iff.mpr ⟨and_eq_zero_of_and_eq hw (by decide), rfl⟩
  case search => exact formatS_eq_ok_iff.mpr ⟨and_eq_zero_of_and_eq hw (by decide), rfl⟩

/-- The family EncodedRow, for every instruction. -/
theorem encode_matches (i : Instr) (h : i.wellFormed = true) : (opcodeRow i).matchesWord (encode i) = true := by
  cases i with
  | nop => exact Laws.EncodedRow.nop h
  | enc key data => exact Laws.EncodedRow.enc key data h
  | dec key data => exact Laws.EncodedRow.dec key data h
  | ksched key => exact Laws.EncodedRow.ksched key h
  | round data aux => exact Laws.EncodedRow.round data aux h
  | permP10 val => exact Laws.EncodedRow.permP10 val h
  | permP8 val => exact Laws.EncodedRow.permP8 val h
  | permIp val => exact Laws.EncodedRow.permIp val h
  | permIpInv val => exact Laws.EncodedRow.permIpInv val h
  | permEp val => exact Laws.EncodedRow.permEp val h
  | permP4 val => exact Laws.EncodedRow.permP4 val h
  | sboxA val => exact Laws.EncodedRow.sboxA val h
  | sboxB val => exact Laws.EncodedRow.sboxB val h
  | rotl5 val amount => exact Laws.EncodedRow.rotl5 val amount h
  | pclr => exact Laws.EncodedRow.pclr h
  | padd p c => exact Laws.EncodedRow.padd p c h
  | search workers => exact Laws.EncodedRow.search workers h

section
variable (op sel : BitVec 4) (key : Key) (data aux : Byte) (val : BitVec 10)

@[simp] theorem fieldKey_encodeK : fieldKey (encodeK op key data) = key := by
  simp [fieldKey, encodeK, BitVec.extractLsb'_or]

@[simp] theorem fieldData_encodeK : fieldData (encodeK op key data) = data := by
  simp [fieldData, encodeK, BitVec.extractLsb'_or]

@[simp] theorem fieldKey_encodeKS : fieldKey (place op 28 ||| place key 16) = key := by
  simp [fieldKey, BitVec.extractLsb'_or]

@[simp] theorem fieldData_encodeR : fieldData (encodeR op data aux) = data := by
  simp [fieldData, encodeR, BitVec.extractLsb'_or]

@[simp] theorem fieldAux_encodeR : fieldAux (encodeR op data aux) = aux := by
  simp [fieldAux, encodeR, BitVec.extractLsb'_or]

@[simp] theorem fieldSel_encodeU : fieldSel (encodeU op sel val) = sel := by
  simp [fieldSel, encodeU, BitVec.extractLsb'_or]

@[simp] theorem fieldVal_encodeU : fieldVal (encodeU op sel val) = val := by
  simp [fieldVal, encodeU, BitVec.extractLsb'_or]

@[simp] theorem fieldSel_encodeS : fieldSel (place op 28 ||| place sel 24) = sel := by
  simp [fieldSel, BitVec.extractLsb'_or]

end

theorem readFields_encode (i : Instr) (h : i.wellFormed = true) : readFields (encode i) i = i := by
  cases i with
  | rotl5 val amount =>
    have hamount : amount < 16 := of_decide_eq_true h
    simp [readFields, encode, Nat.mod_eq_of_lt hamount]
  | search workers =>
    have hworkers : 1 ≤ workers ∧ workers ≤ 16 := by simpa [Instr.wellFormed, workerCountOk] using h
    simp only [readFields, encode, fieldSel_encodeS, BitVec.toNat_ofNat, Instr.search.injEq]
    omega
  | _ => simp [readFields, encode]

theorem decode_encode {i : Instr} (h : i.wellFormed = true) : decode (encode i) = .ok i := by
  rw [decode_of_matches i (encode_matches i h), readFields_encode i h]

/-! ### The (mask, match) table -/

theorem opcodeRow_mem (i : Instr) : opcodeRow i ∈ opcodeRows := by
  cases i <;> simp [opcodeRows, opcodeRow]

/-- Of two different rows the match values differ at a bit that both masks cover. -/
theorem eq_of_opcodeRows_compatible :
    ∀ r ∈ opcodeRows, ∀ r' ∈ opcodeRows, r.value &&& r'.mask = r'.value &&& r.mask → r = r' := by decide

theorem opcodeRow_matches_of_decode {w : Word} {i : Instr} (h : decode w = .ok i) :
    (opcodeRow i).matchesWord w = true := by
  simpa only [encode_of_decode h] using encode_matches i (decode_wellFormed h)

/-! ### The illegal words (rule R58) -/

theorem exists_error_iff {ε α : Type} (x : Except ε α) : (∃ e, x = .error e) ↔ ¬ ∃ a, x = .ok a := by
  cases x <;> simp

theorem decodePerm_fails_iff (w : Word) :
    (∃ e, decodePerm w = .error e) ↔ 6 ≤ (fieldSel w).toNat ∨ w &&& 0x00FFFC00 ≠ 0 := by
  rw [exists_error_iff, decodePerm]
  split
  case h_7 => exact iff_of_true (by simp) (.inl (by grind))
  all_goals rename_i hsel; simp [hsel, formatU_eq_ok_iff]

theorem decodeSbox_fails_iff (w : Word) :
    (∃ e, decodeSbox w = .error e) ↔ 2 ≤ (fieldSel w).toNat ∨ w &&& 0x00FFFC00 ≠ 0 := by
  rw [exists_error_iff, decodeSbox]
  split
  case h_3 => exact iff_of_true (by simp) (.inl (by grind))
  all_goals rename_i hsel; simp [hsel, formatU_eq_ok_iff]

theorem decode_fails_iff (w : Word) : (∃ e, decode w = .error e) ↔ illegalWord w := by
  rw [illegalWord, ← fieldOp_toNat, ← fieldSel_toNat, decode]
  split
  case h_1 hop | h_9 hop => simp [exists_error_iff, hop, formatZ_eq_ok_iff]
  case h_2 hop | h_3 hop => simp [exists_error_iff, hop, formatK_eq_ok_iff]
  case h_4 hop => simp [exists_error_iff, hop, formatKS_eq_ok_iff]
  case h_5 hop | h_10 hop => simp [exists_error_iff, hop, formatR_eq_ok_iff]
  case h_6 hop => simp [decodePerm_fails_iff, hop]
  case h_7 hop => simp [decodeSbox_fails_iff, hop]
  case h_8 hop => simp [exists_error_iff, hop, formatU_eq_ok_iff]
  case h_11 hop => simp [exists_error_iff, hop, formatS_eq_ok_iff]
  case h_12 => exact iff_of_true ⟨_, rfl⟩ (.inl (by grind))

/-! ### Commands that fail -/

/-- A command of an idle block whose execute step raises an error leaves that error alone (rule R104). -/
theorem offerCompleting_error {f : Block → Except ErrorKind Block} {s : State} {e : ErrorKind}
    (hb : s.block.busy = false) (h : f (clearDone s.block) = .error e) :
    offerCompleting f s = .next { s with block := raiseCmdError e s.block } := by
  rw [offerCompleting, offer_idle _ hb, accept_error (e := e) (by rw [h]; rfl), raiseCmdError_clearDone]

/-- The width check before an effect. -/
theorem offerCompleting_wide {n : Nat} {val : BitVec 10} (g : Block → BitVec n → Block) {s : State}
    (hb : s.block.busy = false) (hwide : 2 ^ n ≤ val.toNat) :
    offerCompleting (fun b => (widthChecked n val).map (g b)) s =
      .next { s with block := raiseCmdError .invalidBlockLength s.block } := by
  refine offerCompleting_error hb ?_
  rw [widthChecked_error ((shiftRight_eq_zero_iff val n).not.mpr hwide.not_gt)]
  rfl

theorem exec_of_operandTooWide {i : Instr} {s : State} (hb : s.block.busy = false)
    (hwide : operandTooWide i = true) :
    exec i s = .next { s with block := raiseCmdError .invalidBlockLength s.block } := by
  cases i with
  | permIp | permIpInv | permEp | permP4 | sboxA | sboxB | rotl5 =>
    exact offerCompleting_wide (fun b v => writeDout _ b) hb (of_decide_eq_true hwide)
  | _ => cases hwide

/-! ### The write of an encoded command -/

theorem writeCmd_encode {i : Instr} (h : i.wellFormed = true) (s : State) :
    writeCmd (encode i) s = exec i s := by
  rw [writeCmd, decode_encode h]

/-- `withFetchWord` sets up the write of the word it is given. -/
theorem withFetchWord_word (s : State) (w : Word) : s.withFetchWord 32 w.toNat = withCommand w s := by
  rw [State.withFetchWord, Nat.mod_eq_of_lt w.isLt, BitVec.ofNat_toNat, BitVec.setWidth_eq]

/-! ### The obligations about words -/

/-- Settles O1: the encoded word matches the instruction's row, whose fields hold the operands. -/
theorem decodeOfEncode : Obligations.DecodeOfEncode := by
  unfold Obligations.DecodeOfEncode
  exact fun i h => decode_encode h

/-- Settles O2: a word whose reserved bits are 0 is its fields, each at its place. -/
theorem encodeOfDecode : Obligations.EncodeOfDecode := by
  unfold Obligations.EncodeOfDecode
  exact fun w i h => ⟨decode_wellFormed h, encode_of_decode h⟩

/-- Settles O3: through the encoder, what decodes matches its row; and a row that is matched fixes every bit that
the decoder checks. -/
theorem decodeAgreesWithMaskMatchTable : Obligations.DecodeAgreesWithMaskMatchTable := by
  unfold Obligations.DecodeAgreesWithMaskMatchTable
  refine ⟨fun w => ⟨?_, ?_⟩, fun w i => opcodeRow_matches_of_decode, ?_⟩
  · rintro ⟨i, h⟩
    exact ⟨opcodeRow i, opcodeRow_mem i, opcodeRow_matches_of_decode h⟩
  · rintro ⟨r, hr, hmatch⟩
    obtain ⟨i, -, rfl⟩ := List.mem_map.mp hr
    exact ⟨_, decode_of_matches i hmatch⟩
  · intro w r hr r' hr' hmatch hmatch'
    refine eq_of_opcodeRows_compatible r hr r' hr' ?_
    rw [← eq_of_beq hmatch, ← eq_of_beq hmatch', BitVec.and_assoc, BitVec.and_assoc,
      BitVec.and_comm r.mask]

/-- Settles O4: the illegal words are those that fail to decode, and both kinds of failure raise their error
alone. -/
theorem illegalWordsAndWideOperandsFail : Obligations.IllegalWordsAndWideOperandsFail := by
  unfold Obligations.IllegalWordsAndWideOperandsFail
  refine ⟨decode_fails_iff, ?_, ?_⟩
  · intro w s hb hillegal
    obtain ⟨e, he⟩ := (decode_fails_iff w).mpr hillegal
    rw [writeCmd, he]
    exact offerCompleting_error (e := .illegalCommand) hb rfl
  · intro w i s hb hdecode hwide
    rw [writeCmd, hdecode]
    exact exec_of_operandTooWide hb hwide

/-- Settles O5, by evaluating the twelve rows. -/
theorem exampleWordsAreReadRight : Obligations.ExampleWordsAreReadRight := by
  unfold Obligations.ExampleWordsAreReadRight
  decide +kernel

/-- Settles O8: both writes reach CMD with an encoded command, which decodes to itself. -/
theorem stepRunsTheHostsCommandLine : Obligations.StepRunsTheHostsCommandLine := by
  unfold Obligations.StepRunsTheHostsCommandLine
  constructor
  · intro s ts ls i hi hturns hprog
    rw [step_host hturns hprog, runLine, if_pos hi, performAccess_write, writeReg, writeCmd_encode hi]
  · intro s i hi
    rw [withFetchWord_word, step_host (s := withCommand (encode i) s) rfl rfl, runLine]
    exact (performAccess_write .cmd (encode i) s).trans (congrArg _ (writeCmd_encode hi s))

end Sys2Proof.Machine
end

section
/-! The assembler: each reader of an operand gives the number that stands there or nothing, and each form gives
commands that a word spells (rules R61 and R62). -/

namespace Sys2Proof.Machine

/-! ### Reading operands (rule R61) -/

/-- A number checked against a range. -/
theorem bind_check_eq_some_iff {P : Nat → Prop} [DecidablePred P] {num : Option Nat} {m : Nat} :
    (num.bind fun n => if P n then some n else none) = some m ↔ num = some m ∧ P m := by
  cases num with
  | none => simp
  | some n =>
    simp only [Option.bind_some, Option.ite_none_right_eq_some, Option.some.injEq]
    exact ⟨fun ⟨hP, e⟩ => ⟨e, e ▸ hP⟩, fun ⟨e, hP⟩ => ⟨e ▸ hP, e⟩⟩

theorem bind_check_eq_none {α : Type} {P : Nat → Prop} [DecidablePred P] {num : Option Nat} {f : Nat → α}
    {n : Nat} (hn : num = some n) (hout : ¬ P n) :
    (num.bind fun n => if P n then some (f n) else none) = none := by
  simp [hn, hout]

/-- A number checked against the range of a field is read as the field's value. -/
theorem bind_field_eq_some_iff {w : Nat} {num : Option Nat} {v : BitVec w} :
    (num.bind fun n => if n < 2 ^ w then some (BitVec.ofNat w n) else none) = some v ↔ num = some v.toNat := by
  rw [Option.bind_eq_some_iff]
  constructor
  · rintro ⟨n, hn, hv⟩
    obtain ⟨hlt, hv⟩ := Option.ite_none_right_eq_some.mp hv
    obtain rfl := Option.some.inj hv
    rw [hn, BitVec.toNat_ofNat, Nat.mod_eq_of_lt hlt]
  · intro hn
    exact ⟨v.toNat, hn, by rw [if_pos v.isLt, BitVec.ofNat_toNat, BitVec.setWidth_eq]⟩

theorem readOperand_eq_some_iff {w : Nat} {cs : List Char} {v : BitVec w} :
    readOperand w cs = some v ↔ readNumber w cs = some v.toNat := bind_field_eq_some_iff

theorem readVal_eq_some_iff {w : Nat} {cs : List Char} {v : BitVec 10} :
    readVal w cs = some v ↔ readNumber w cs = some v.toNat := bind_field_eq_some_iff (w := 10)

theorem readAmount_eq_some_iff {cs : List Char} {n : Nat} :
    readAmount cs = some n ↔ readNumber 4 cs = some n ∧ n < 16 := bind_check_eq_some_iff

theorem readWorkers_eq_some_iff {cs : List Char} {n : Nat} :
    readWorkers cs = some n ↔ readNumber 4 cs = some n ∧ 1 ≤ n ∧ n ≤ 16 := bind_check_eq_some_iff

theorem readNumber_quoted_eq_some_iff (w : Nat) (cs : List Char) (n : Nat) :
    readNumber w (quoteChar :: (cs ++ [quoteChar])) = some n ↔
      ∃ v : BitVec w, parseBits cs w .invalidBlockLength = .ok v ∧ n = v.toNat := by
  cases h : parseBits cs w .invalidBlockLength <;> simp [readNumber, quoteChar, h, eq_comm]

/-! ### What a line gives -/

/-- A form of two operands assembles exactly when both are read. -/
theorem map2_eq_some_iff {α β γ : Type} {f : α → β → γ} {a : Option α} {b : Option β} {c : γ} :
    map2 f a b = some c ↔ ∃ x y, a = some x ∧ b = some y ∧ c = f x y := by
  cases a <;> cases b <;> simp [map2, eq_comm]

theorem map_singleton_eq_some_iff {α : Type} {f : α → Instr} {o : Option α} {is : List Instr} :
    (o.map fun x => [f x]) = some is ↔ ∃ x, o = some x ∧ is = [f x] := by
  simp [eq_comm]

theorem map_map_singleton_eq_some_iff {α : Type} {f : α → Instr} {o : Option α} {is : List Instr} :
    ((o.map f).map fun i => [i]) = some is ↔ ∃ x, o = some x ∧ is = [f x] := by
  simp [eq_comm]

/-- What an assembled line gives is at least one command, each of them one that a word spells. -/
def Spelled (line : Option (List Instr)) : Prop :=
  ∀ is, line = some is → is ≠ [] ∧ ∀ i ∈ is, i.wellFormed = true

namespace Spelled

theorem none : Spelled .none := fun _ h => nomatch h

theorem one {i : Instr} (hi : i.wellFormed = true) : Spelled (some [i]) := by
  rintro is ⟨⟩
  exact ⟨List.cons_ne_nil _ _, by simpa using hi⟩

theorem ite {c : Prop} [Decidable c] {x y : Option (List Instr)} (hx : Spelled x) (hy : Spelled y) :
    Spelled (if c then x else y) := by
  split
  · exact hx
  · exact hy

theorem map {α : Type} {o : Option α} {f : α → Instr} (h : ∀ x, o = some x → (f x).wellFormed = true) :
    Spelled (o.map fun x => [f x]) := by
  cases o with
  | none => exact none
  | some x => exact one (h x rfl)

theorem map2 {α β : Type} {a : Option α} {b : Option β} {f : α → β → Instr}
    (h : ∀ x y, a = some x → b = some y → (f x y).wellFormed = true) :
    Spelled (map2 (fun x y => [f x y]) a b) := by
  intro is his
  obtain ⟨x, y, hx, hy, rfl⟩ := map2_eq_some_iff.mp his
  exact one (h x y hx hy) _ rfl

end Spelled

theorem assemblePerm_wellFormed {table val : List Char} {i : Instr} (h : assemblePerm table val = some i) :
    i.wellFormed = true := by
  unfold assemblePerm at h
  repeat' split at h
  all_goals simp only [Option.map_eq_some_iff, reduceCtorEq] at h
  all_goals obtain ⟨v, -, rfl⟩ := h; rfl

theorem assembleSbox_wellFormed {box val : List Char} {i : Instr} (h : assembleSbox box val = some i) :
    i.wellFormed = true := by
  unfold assembleSbox at h
  repeat' split at h
  all_goals simp only [Option.map_eq_some_iff, reduceCtorEq] at h
  all_goals obtain ⟨v, -, rfl⟩ := h; rfl

theorem rotl5_wellFormed {cs : List Char} {n : Nat} (v : BitVec 10) (h : readAmount cs = some n) :
    (Instr.rotl5 v n).wellFormed = true := decide_eq_true (readAmount_eq_some_iff.mp h).2

theorem search_wellFormed {cs : List Char} {n : Nat} (h : readWorkers cs = some n) :
    (Instr.search n).wellFormed = true := by
  simpa [Instr.wellFormed, workerCountOk] using (readWorkers_eq_some_iff.mp h).2

theorem assembleParts_crack_eq_some_iff {a b c : List Char} {is : List Instr} :
    assembleParts "crack".toList [a, b, c] = some is ↔
      ∃ p ct n, readOperand 8 a = some p ∧ readOperand 8 b = some ct ∧ readWorkers c = some n ∧
        is = [.pclr, .padd p ct, .search n] := by
  simp only [assembleParts, if_true, Option.bind_eq_some_iff, map2_eq_some_iff, Option.map_eq_some_iff]
  constructor
  · rintro ⟨_, ⟨p, ct, hp, hct, rfl⟩, n, hn, rfl⟩
    exact ⟨p, ct, n, hp, hct, hn, rfl⟩
  · rintro ⟨p, ct, n, hp, hct, hn, rfl⟩
    exact ⟨_, ⟨p, ct, hp, hct, rfl⟩, n, hn, rfl⟩

/-- Every form of rules R61 and R62, in the order in which the assembler tries the mnemonics. -/
theorem assembleParts_spelled (m : List Char) (ops : List (List Char)) : Spelled (assembleParts m ops) :=
  match ops with
  | [] => .ite (.one rfl) (.ite (.one rfl) (.ite (.one rfl) .none))
  | [_] =>
    .ite (.map fun _ _ => rfl) (.ite (.map fun _ h => search_wellFormed h)
      (.ite (.map fun _ h => assemblePerm_wellFormed h) (.ite (.map fun _ h => assemblePerm_wellFormed h) .none)))
  | [_, _] =>
    .ite (.map2 fun _ _ _ _ => rfl) (.ite (.map2 fun _ _ _ _ => rfl) (.ite (.map2 fun _ _ _ _ => rfl)
      (.ite (.map fun _ h => assemblePerm_wellFormed h) (.ite (.map fun _ h => assembleSbox_wellFormed h)
        (.ite (.map2 fun v _ _ h => rotl5_wellFormed v h) (.ite (.map2 fun _ _ _ _ => rfl) .none))))))
  | [a, b, c] => by
    by_cases hm : m = "crack".toList
    · intro is his
      obtain ⟨p, ct, n, -, -, hn, rfl⟩ := assembleParts_crack_eq_some_iff.mp (hm ▸ his)
      exact ⟨List.cons_ne_nil _ _, by simpa [Instr.wellFormed] using search_wellFormed hn⟩
    · rw [assembleParts, if_neg hm]
      exact .none
  | _ :: _ :: _ :: _ :: _ => .none

/-! ### The obligation about the assembler -/

/-- Settles O6: each form is a map over its readers, and a reader gives exactly the numbers of its operand's
range. -/
theorem assembledCommandsAreWellFormed : Obligations.AssembledCommandsAreWellFormed := by
  unfold Obligations.AssembledCommandsAreWellFormed
  refine ⟨?lines, ?operands, ?counts, ?forms, ?boxes, ?crack⟩
  case lines =>
    intro line is h
    obtain ⟨hne, hwf⟩ := assembleParts_spelled _ _ is h
    exact ⟨hne, fun i hi => ⟨hwf i hi, decode_encode (hwf i hi)⟩⟩
  case operands =>
    exact fun w cs => ⟨fun v => readOperand_eq_some_iff, fun n hn hout => bind_check_eq_none hn hout.not_gt,
      fun v => readVal_eq_some_iff, fun n hn hout => bind_check_eq_none hn hout.not_gt,
      readNumber_quoted_eq_some_iff w cs⟩
  case counts =>
    intro cs n
    exact ⟨readAmount_eq_some_iff.trans (and_congr_right' Nat.lt_succ_iff),
      fun hn hout => bind_check_eq_none hn (by omega), readWorkers_eq_some_iff,
      fun hn hout => bind_check_eq_none hn (by omega)⟩
  case forms =>
    intro a b is
    exact ⟨map2_eq_some_iff, map2_eq_some_iff, map_singleton_eq_some_iff, map2_eq_some_iff, map2_eq_some_iff,
      map2_eq_some_iff, map_singleton_eq_some_iff⟩
  case boxes =>
    intro a is
    refine ⟨?_, ?_, ?_, ?_, ?_, ?_, ?_, ?_⟩
    all_goals exact map_map_singleton_eq_some_iff
  case crack => exact fun a b c is => assembleParts_crack_eq_some_iff

end Sys2Proof.Machine
end

section
/-! The command cycle: what a command that passes its checks leaves on an idle block (rules R67 to R71), and the
step in which the host's write to CMD runs it. -/

namespace Sys2Proof.Machine

/-! ### Commands that pass their checks -/

/-- A command other than SEARCH whose execute step succeeds on an idle block completes (rule R69). -/
theorem offerCompleting_ok {f : Block → Except ErrorKind Block} {s : State} {b : Block}
    (hb : s.block.busy = false) (h : f (clearDone s.block) = .ok b) :
    offerCompleting f s = .next { s with block := complete b } := by
  rw [offerCompleting, offer_idle _ hb, accept_ok (b' := complete b) (by rw [h]; rfl)]

/-- A command whose execute step can not fail. -/
theorem offerCompleting_total (g : Block → Block) {s : State} (hb : s.block.busy = false) :
    offerCompleting (fun b => .ok (g b)) s =
      .next { s with block := complete (g (clearDone s.block)) } :=
  offerCompleting_ok hb rfl

/-- The width check before an effect, when the operand fits. -/
theorem offerCompleting_fits {n : Nat} {val : BitVec 10} (g : Block → BitVec n → Block) {s : State}
    (hb : s.block.busy = false) (hfits : val >>> n = 0) :
    offerCompleting (fun b => (widthChecked n val).map (g b)) s =
      .next { s with block := complete (g (clearDone s.block) (val.setWidth n)) } := by
  refine offerCompleting_ok hb ?_
  rw [widthChecked_ok hfits]
  rfl

/-- Check 2 of rule R68, as `commandError` states it, is the width check. -/
theorem fits_of_widthError_eq_none {n : Nat} {val : BitVec 10} {e : ErrorKind}
    (h : (if val >>> n = 0 then none else some e) = none) : val >>> n = 0 := by
  simpa using h

/-- The outcome `o` is a next state in which only the block of `s` has changed, the command is complete, and
BUSY and the earlier errors are as before. -/
def CompletesKeepingErrors (s : State) (o : Host.Outcome State Fault Refusal) : Prop :=
  ∃ b, o = .next { s with block := b } ∧ b.err = s.block.err ∧ b.errCode = s.block.errCode ∧
    b.ovr = s.block.ovr ∧ b.busy = s.block.busy ∧ b.done = true

theorem exec_completesKeepingErrors {i : Instr} {s : State} (hb : s.block.busy = false)
    (hpass : commandError i s = none) (hi : ∀ n, i ≠ .search n) :
    CompletesKeepingErrors s (exec i s) := by
  cases i with
  | search n => exact absurd rfl (hi n)
  | nop | enc | dec | ksched | round | pclr =>
    exact ⟨_, offerCompleting_total _ hb, rfl, rfl, rfl, rfl, rfl⟩
  | permP10 | permP8 | permIp | permIpInv | permEp | permP4 | sboxA | sboxB | rotl5 =>
    exact ⟨_, offerCompleting_fits (fun b v => writeDout _ b) hb (fits_of_widthError_eq_none hpass),
      rfl, rfl, rfl, rfl, rfl⟩
  | padd p c =>
    have hroom : pairTableFull s.cfg (clearDone s.block) = false := by
      simpa [commandError, pairTableFull] using hpass
    exact ⟨_, offerCompleting_ok (b := appendPair p c (clearDone s.block)) hb (by simp [hroom]),
      rfl, rfl, rfl, rfl, rfl⟩

/-- SEARCH on a table that holds a pair starts the scan (rule R90). -/
theorem execSearch_starts (workers : Nat) {s : State} (hb : s.block.busy = false)
    (hpair : s.block.pairCnt ≠ 0) :
    execSearch workers s =
      .next { s with block := startSearch (lanesFor s.cfg workers) (clearDone s.block) } := by
  have hpairs : pairTableEmpty (clearDone s.block) = false := by simpa [pairTableEmpty] using hpair
  rw [execSearch, offer_idle _ hb,
    accept_ok (b' := startSearch (lanesFor s.cfg workers) (clearDone s.block)) (by simp [hpairs])]

/-! ### Commands that read nothing but their word and the tables -/

/-- Completion with results: no value for DOUT or for the subkeys says that they are not written. -/
def completeWith (d : Option (BitVec 10)) (ks : Option (Byte × Byte)) (b : Block) : Block :=
  { b with
    dout := d.getD b.dout
    k1 := (ks.map (·.1)).getD b.k1
    k2 := (ks.map (·.2)).getD b.k2
    done := true }

/-- From every idle state with the given tables, `run` fails with one and the same error, or completes with one
and the same results. -/
def FixedResult (tables : Tables) (run : State → Host.Outcome State Fault Refusal) : Prop :=
  (∃ e : ErrorKind, ∀ s : State, s.cfg.tables = tables → s.block.busy = false →
    run s = .next { s with block := raiseCmdError e s.block }) ∨
  (∃ (d : Option (BitVec 10)) (ks : Option (Byte × Byte)), ∀ s : State, s.cfg.tables = tables →
    s.block.busy = false →
    run s = .next { s with block := completeWith d ks s.block })

theorem fixedResult_of_results {tables : Tables} {run : State → Host.Outcome State Fault Refusal}
    (d : Tables → Option (BitVec 10)) (ks : Tables → Option (Byte × Byte))
    (h : ∀ s : State, s.block.busy = false →
      run s = .next { s with block := completeWith (d s.cfg.tables) (ks s.cfg.tables) s.block }) :
    FixedResult tables run := by
  refine .inr ⟨d tables, ks tables, ?_⟩
  rintro s rfl hb
  exact h s hb

/-- PERM, SBOX and ROTL5: the width check depends on the word alone, and so does DOUT, under the tables. -/
theorem fixedResult_widthChecked (tables : Tables) {n out : Nat} (val : BitVec 10)
    (g : Tables → BitVec n → BitVec out) :
    FixedResult tables fun s =>
      offerCompleting (fun b => (widthChecked n val).map fun v => writeDout (g s.cfg.tables v) b) s := by
  by_cases hfits : val >>> n = 0
  · exact fixedResult_of_results (fun t => some ((g t (val.setWidth n)).setWidth 10)) (fun _ => none)
      fun s hb => offerCompleting_fits _ hb hfits
  · have hwide : 2 ^ n ≤ val.toNat := not_lt.mp ((shiftRight_eq_zero_iff val n).not.mp hfits)
    exact .inl ⟨.invalidBlockLength, fun s _ hb => offerCompleting_wide _ hb hwide⟩

theorem exec_fixedResult {i : Instr} (tables : Tables) (hi : readsOnlyItsWord i = true) :
    FixedResult tables (exec i) := by
  cases i with
  | enc key data =>
    exact fixedResult_of_results (fun t => some ((encrypt t data key).setWidth 10))
      (fun t => some (deriveSubkeys t key)) fun _ hb => offerCompleting_total _ hb
  | dec key data =>
    exact fixedResult_of_results (fun t => some ((decrypt t data key).setWidth 10))
      (fun t => some (deriveSubkeys t key)) fun _ hb => offerCompleting_total _ hb
  | ksched key =>
    exact fixedResult_of_results (fun _ => none) (fun t => some (deriveSubkeys t key))
      fun _ hb => offerCompleting_total _ hb
  | round data aux =>
    exact fixedResult_of_results (fun t => some ((feistelRound t data aux).setWidth 10)) (fun _ => none)
      fun _ hb => offerCompleting_total _ hb
  | permP10 val => exact fixedResult_widthChecked tables val fun t v => permute v t.p10 10
  | permP8 val => exact fixedResult_widthChecked tables val fun t v => permute v t.p8 8
  | permIp val => exact fixedResult_widthChecked tables val fun t v => permute v t.ip 8
  | permIpInv val => exact fixedResult_widthChecked tables val fun t v => permute v t.ipInv 8
  | permEp val => exact fixedResult_widthChecked tables val fun t v => permute v t.ep 8
  | permP4 val => exact fixedResult_widthChecked tables val fun t v => permute v t.p4 4
  | sboxA val => exact fixedResult_widthChecked tables val fun t v => sboxLookup t.sboxA v
  | sboxB val => exact fixedResult_widthChecked tables val fun t v => sboxLookup t.sboxB v
  | rotl5 val amount => exact fixedResult_widthChecked tables val fun _ v => rotl v (amount : Int)
  | nop | pclr | padd | search => cases hi

/-! ### The host's write to CMD -/

/-- A host turn whose line writes `w` to CMD offers the word to the block and records the access. -/
theorem step_writeCmd {s : State} {ts : List Turn} {ls : List HostLine} {w : Word}
    (hturns : s.turns = .host :: ts) (hprog : s.host.prog = .bus (writeAccess s.cfg .cmd w) :: ls) :
    step s = mapNext (record (writeAccess s.cfg .cmd w) .written)
      (writeCmd w { s with turns := ts, host := { s.host with prog := ls } }) :=
  (step_host hturns hprog).trans (performAccess_write .cmd w _)

/-! ### The obligations about the command cycle -/

/-- Settles O11: a SEARCH that passes its check starts the scan, and every other command completes. -/
theorem successfulCommandKeepsEarlierErrors : Obligations.SuccessfulCommandKeepsEarlierErrors := by
  unfold Obligations.SuccessfulCommandKeepsEarlierErrors
  intro w i s hb hdecode hpass
  rw [writeCmd, hdecode]
  by_cases hsearch : ∃ n, i = .search n
  · obtain ⟨n, rfl⟩ := hsearch
    have hpair : s.block.pairCnt ≠ 0 := by simpa [commandError] using hpass
    exact ⟨_, execSearch_starts n hb hpair, rfl, rfl, rfl, fun _ => ⟨rfl, rfl⟩, fun h => absurd rfl (h n)⟩
  · obtain ⟨b, hexec, herr, hcode, hovr, hbusy, hdone⟩ :=
      exec_completesKeepingErrors hb hpass (not_exists.mp hsearch)
    exact ⟨b, hexec, herr, hcode, hovr, fun h => absurd h hsearch, fun _ => ⟨hbusy.trans hb, hdone⟩⟩

/-- Settles O31: the width check and the results are functions of the word and the tables. -/
theorem cipherResultsIgnoreEarlierState : Obligations.CipherResultsIgnoreEarlierState := by
  unfold Obligations.CipherResultsIgnoreEarlierState
  exact fun i tables hi => exec_fixedResult tables hi

/-- Settles O7: the access reaches CMD, and the decoder chooses between the two. -/
theorem stepRunsTheWrittenCommand : Obligations.StepRunsTheWrittenCommand := by
  unfold Obligations.StepRunsTheWrittenCommand
  intro s ts ls w hturns hprog
  constructor
  · intro i hdecode
    rw [step_writeCmd hturns hprog, writeCmd, hdecode]
  · intro e hdecode
    rw [step_writeCmd hturns hprog, writeCmd, hdecode]

/-- Settles O12: NOP's execute step leaves the block as it is, and completing it sets DONE. -/
theorem nopOnlyCompletes : Obligations.NopOnlyCompletes := by
  unfold Obligations.NopOnlyCompletes
  exact fun s hb => offerCompleting_total _ hb

end Sys2Proof.Machine
end

section
/-! The datapath's primitives: permutation and rotation by positions (rules R72, R73), and the commands PERM, SBOX
and ROTL5, which write their results to DOUT (rules R74 to R77). -/

namespace Sys2Proof.Machine

/-! ### Permutations -/

/-- Entry j of a table, for a j that counts one of its positions. -/
theorem entry_mem {T : List Nat} {j : Nat} (h1 : 1 ≤ j) (h2 : j ≤ T.length) : entry T j ∈ T := by
  have hj : j - 1 < T.length := by omega
  rw [entry, List.getD_eq_getElem _ _ hj]
  exact List.getElem_mem hj

/-- The table `T` takes a `w`-bit value to an `out`-bit one: it has `out` entries, all of them positions in 1..w
(rule R72). -/
def TableFits (w : Nat) (T : List Nat) (out : Nat) : Prop := T.length = out ∧ ∀ e ∈ T, 1 ≤ e ∧ e ≤ w

/-- A permutation of 1..n takes n bits to n bits. -/
theorem tableFits_of_isPermOf {n : Nat} {T : List Nat} (h : IsPermOf n T) : TableFits n T n := by
  refine ⟨by rw [h.length_eq, List.length_range'], fun e he => ?_⟩
  have := List.mem_range'_1.mp (h.mem_iff.mp he)
  omega

theorem pos_zero (w i : Nat) : pos (0#w) i = false := BitVec.getLsbD_zero

theorem pos_allOnes {w i : Nat} (h1 : 1 ≤ i) (h2 : i ≤ w) : pos (BitVec.allOnes w) i = true := by
  rw [pos, BitVec.getLsbD_allOnes]
  exact decide_eq_true (by omega)

theorem permute_zero {w out : Nat} {T : List Nat} (hT : T.length = out) : permute (0#w) T out = 0#out :=
  eq_of_pos_eq fun j h1 h2 => by rw [pos_permute _ T hT j h1 h2, pos_zero, pos_zero]

theorem permute_allOnes {w out : Nat} {T : List Nat} (hT : TableFits w T out) :
    permute (BitVec.allOnes w) T out = BitVec.allOnes out := by
  obtain ⟨hlength, hentries⟩ := hT
  refine eq_of_pos_eq fun j h1 h2 => ?_
  obtain ⟨hge, hle⟩ := hentries _ (entry_mem h1 (hlength ▸ h2))
  rw [pos_permute _ T hlength j h1 h2, pos_allOnes hge hle, pos_allOnes h1 h2]

/-- Tables that name each other's positions undo each other. -/
theorem permute_permute_of_entry_entry {w : Nat} {T U : List Nat} (hT : TableFits w T w) (hU : TableFits w U w)
    (h : ∀ j, 1 ≤ j → j ≤ w → entry T (entry U j) = j) (v : BitVec w) :
    permute (permute v T w) U w = v := by
  refine eq_of_pos_eq fun j h1 h2 => ?_
  obtain ⟨hge, hle⟩ := hU.2 _ (entry_mem h1 (hU.1 ▸ h2))
  rw [pos_permute _ U hU.1 j h1 h2, pos_permute _ T hT.1 _ hge hle, h j h1 h2]

/-- IP_INV undoes IP under every TABLES of rule R36. -/
theorem permute_ipInv_permute_ip {t : Tables} (ht : t.Valid) (v : Byte) :
    permute (permute v t.ip 8) t.ipInv 8 = v := by
  obtain ⟨-, -, hip, ⟨hipInv, hinv⟩, -⟩ := ht
  exact permute_permute_of_entry_entry (tableFits_of_isPermOf hip) (tableFits_of_isPermOf hipInv)
    (fun j h1 h2 => hinv j (List.mem_range'_1.mpr ⟨h1, by omega⟩)) v

/-! ### Rotations -/

theorem pos_eq_getMsbD {w i : Nat} (v : BitVec w) (h1 : 1 ≤ i) (h2 : i ≤ w) : pos v i = v.getMsbD (i - 1) := by
  rw [pos, BitVec.getMsbD_eq_getLsbD, decide_eq_true (by omega), Bool.true_and]
  congr 1
  omega

/-- The amount n mod W of a rotation is below W. -/
theorem rotationAmount_lt {w : Nat} (hw : 1 ≤ w) (n : Int) : (n % (w : Int)).toNat < w := by
  have := Int.emod_lt_of_pos n (show 0 < (w : Int) by omega)
  omega

/-- The rotation of rule R73 is the library's rotation by n mod W. -/
theorem rotl_eq_rotateLeft {w : Nat} (hw : 1 ≤ w) (v : BitVec w) (n : Int) :
    rotl v n = v.rotateLeft (n % (w : Int)).toNat := by
  rw [BitVec.rotateLeft_def, Nat.mod_eq_of_lt (rotationAmount_lt hw n), rotl]
  split
  next h => rw [h, BitVec.shiftLeft_zero, Nat.sub_zero, BitVec.ushiftRight_eq_zero le_rfl, BitVec.or_zero]
  next => rfl

theorem toNat_rotl {w : Nat} (hw : 1 ≤ w) (v : BitVec w) (n : Int) :
    (rotl v n).toNat = (v.toNat <<< (n % (w : Int)).toNat ||| v.toNat >>> (w - (n % (w : Int)).toNat)) &&&
      (2 ^ w - 1) := by
  have hright : v.toNat >>> (w - (n % (w : Int)).toNat) < 2 ^ w :=
    (Nat.shiftRight_le ..).trans_lt v.isLt
  rw [rotl_eq_rotateLeft hw, BitVec.toNat_rotateLeft, Nat.mod_eq_of_lt (rotationAmount_lt hw n),
    Nat.and_two_pow_sub_one_eq_mod, Nat.or_mod_two_pow, Nat.mod_eq_of_lt hright]

/-- Position i of a rotated value is the position n further on, around the end (rule R73). -/
theorem pos_rotl {w i : Nat} (v : BitVec w) (n : Int) (h1 : 1 ≤ i) (h2 : i ≤ w) :
    pos (rotl v n) i = pos v ((i - 1 + (n % (w : Int)).toNat) % w + 1) := by
  have hw : 1 ≤ w := h1.trans h2
  rw [pos_eq_getMsbD _ h1 h2, pos_eq_getMsbD _ (Nat.le_add_left ..) (Nat.mod_lt _ hw), Nat.add_sub_cancel,
    rotl_eq_rotateLeft hw, BitVec.getMsbD_rotateLeft, decide_eq_true (by omega), Bool.true_and, Nat.add_comm]

/-! ### The commands that write a function of VAL to DOUT -/

/-- A VAL of the operand's own width passes the width check, and the command writes its result to DOUT. -/
theorem offerCompleting_dout {n out : Nat} (hn : n ≤ 10) (g : BitVec n → BitVec out) (v : BitVec n) {s : State}
    (hb : s.block.busy = false) :
    offerCompleting (fun b => (widthChecked n (v.setWidth 10)).map fun v => writeDout (g v) b) s =
      completedWithDout s ((g v).setWidth 10) :=
  offerCompleting_ok (b := writeDout (g v) (clearDone s.block)) hb (by rw [widthChecked_setWidth hn]; rfl)

theorem offerCompleting_permCommand {n : Nat} (hn : n ≤ 10) (T : List Nat) (out : Nat) (v : BitVec n) {s : State}
    (hb : s.block.busy = false) :
    offerCompleting (permCommand T n out (v.setWidth 10)) s = completedWithDout s ((permute v T out).setWidth 10) :=
  offerCompleting_dout hn (fun v => permute v T out) v hb

theorem offerCompleting_sboxCommand (S : List (List (BitVec 2))) (h : BitVec 4) {s : State}
    (hb : s.block.busy = false) :
    offerCompleting (sboxCommand S (h.setWidth 10)) s = completedWithDout s ((sboxLookup S h).setWidth 10) :=
  offerCompleting_dout (by decide) (sboxLookup S) h hb

theorem exec_permIp (v : Byte) {s : State} (hb : s.block.busy = false) :
    exec (.permIp (v.setWidth 10)) s = completedWithDout s ((permute v s.cfg.tables.ip 8).setWidth 10) :=
  offerCompleting_permCommand (by decide) _ _ v hb

theorem exec_permIpInv (v : Byte) {s : State} (hb : s.block.busy = false) :
    exec (.permIpInv (v.setWidth 10)) s = completedWithDout s ((permute v s.cfg.tables.ipInv 8).setWidth 10) :=
  offerCompleting_permCommand (by decide) _ _ v hb

/-! ### The obligations about the primitives -/

/-- Settles O23: the law of positions, bit L − j being position j. -/
theorem permuteTakesTheNamedPositions : Obligations.PermuteTakesTheNamedPositions := by
  unfold Obligations.PermuteTakesTheNamedPositions
  exact fun w out v T hlength _ j h1 h2 => pos_permute v T hlength j h1 h2

/-- Settles O24: the rotation is the library's, whose value and positions are known. -/
theorem rotlMovesPositions : Obligations.RotlMovesPositions := by
  unfold Obligations.RotlMovesPositions
  intro w v n hw
  exact ⟨rotationAmount_lt hw n, fun hzero => if_pos hzero, fun _ => toNat_rotl hw v n,
    fun i h1 h2 => pos_rotl v n h1 h2⟩

/-- Settles O29: each table of rule R36 fits its widths, so that every position of the result is one of the
input. -/
theorem permutationsKeepAllZerosAndAllOnes : Obligations.PermutationsKeepAllZerosAndAllOnes := by
  unfold Obligations.PermutationsKeepAllZerosAndAllOnes
  rintro t ⟨hp10, ⟨hp8, -, hp8Entries⟩, hip, ⟨hipInv, -⟩, hep, hp4, -⟩
  intro row hrow
  have hfits : TableFits row.1 row.2.1 row.2.2 := by
    revert row
    simp only [List.forall_mem_cons, List.not_mem_nil, false_implies, implies_true, and_true]
    exact ⟨tableFits_of_isPermOf hp10, ⟨hp8, hp8Entries⟩, tableFits_of_isPermOf hip, tableFits_of_isPermOf hipInv,
      hep, tableFits_of_isPermOf hp4⟩
  exact ⟨permute_zero hfits.1, permute_allOnes hfits⟩

/-- Settles O30: the value that IP writes to DOUT fits IP_INV's input, and IP_INV undoes IP. -/
theorem permIpInvUndoesPermIp : Obligations.PermIpInvUndoesPermIp := by
  unfold Obligations.PermIpInvUndoesPermIp
  rintro s v ⟨-, -, htables, -⟩ hb
  refine ⟨_, _, exec_permIp v hb, exec_permIpInv _ hb, ?_⟩
  simp only [permute_ipInv_permute_ip htables]

/-- Settles O17: each PERM is `permCommand` with its own table; a 10-bit VAL is its own extension to 10 bits. -/
theorem permAppliesItsTable : Obligations.PermAppliesItsTable := by
  unfold Obligations.PermAppliesItsTable
  intro s hb
  exact ⟨fun v => offerCompleting_permCommand (le_refl 10) _ _ v hb,
    fun v => offerCompleting_permCommand (le_refl 10) _ _ v hb, fun v => exec_permIp v hb,
    fun v => exec_permIpInv v hb, fun v => offerCompleting_permCommand (by decide) _ _ v hb,
    fun v => offerCompleting_permCommand (by decide) _ _ v hb⟩

/-- Settles O18: positions 1 to 4 of the half are its bits 3 to 0. -/
theorem sboxLooksUpItsEntry : Obligations.SboxLooksUpItsEntry := by
  unfold Obligations.SboxLooksUpItsEntry
  exact fun s h hb => ⟨offerCompleting_sboxCommand _ h hb, offerCompleting_sboxCommand _ h hb⟩

/-- Settles O19: an amount and its remainder by 5 reach the same position. -/
theorem rotl5RotatesTheHalf : Obligations.Rotl5RotatesTheHalf := by
  unfold Obligations.Rotl5RotatesTheHalf
  intro s v n hb
  refine ⟨rotl v n, offerCompleting_dout (by decide) (fun v => rotl v n) v hb, fun i h1 h2 => ?_⟩
  have hamount : ((n : Int) % (5 : Nat)).toNat = n % 5 := by omega
  rw [pos_rotl v n h1 h2, hamount, Nat.add_mod_mod]

end Sys2Proof.Machine
end

section
/-! The key schedule: successive rotations add up (rules R73, R78), and KSCHED writes the two subkeys (rule R79). -/

namespace Sys2Proof.Machine

/-! ### Successive rotations -/

/-- The amounts of two rotations of a `w`-bit value, each reduced mod W, add up mod W to that of their sum. -/
theorem rotationAmount_add {w : Nat} (hw : 1 ≤ w) (m n : Int) :
    ((m % (w : Int)).toNat + (n % (w : Int)).toNat) % w = ((m + n) % (w : Int)).toNat := by
  have hne : (w : Int) ≠ 0 := by omega
  apply Int.ofNat_inj.mp
  rw [Int.natCast_emod, Int.natCast_add, Int.toNat_of_nonneg (Int.emod_nonneg m hne),
    Int.toNat_of_nonneg (Int.emod_nonneg n hne), Int.toNat_of_nonneg (Int.emod_nonneg _ hne), ← Int.add_emod]

theorem rotl_rotl {w : Nat} (v : BitVec w) (m n : Int) : rotl (rotl v m) n = rotl v (m + n) := by
  refine eq_of_pos_eq fun i h1 h2 => ?_
  have hw : 1 ≤ w := h1.trans h2
  rw [pos_rotl _ n h1 h2, pos_rotl _ m (Nat.le_add_left ..) (Nat.mod_lt _ hw), pos_rotl _ (m + n) h1 h2,
    ← rotationAmount_add hw m n, Nat.add_sub_cancel, Nat.mod_add_mod, Nat.add_mod_mod, Nat.add_assoc,
    Nat.add_comm (m % (w : Int)).toNat]

/-! ### The command and its read-back -/

/-- Bits [15:8] of SUBKEYS are K2 and bits [7:0] are K1 (rule R23). -/
theorem toNat_readReg_subkeys (s : State) :
    (readReg .subkeys s).1.toNat = 256 * s.block.k2.toNat + s.block.k1.toNat :=
  toNat_two_bytes _ _

theorem exec_ksched (key : Key) {s : State} (hb : s.block.busy = false) :
    exec (.ksched key) s =
      .next { s with
        block := { s.block with
          k1 := (deriveSubkeys s.cfg.tables key).1
          k2 := (deriveSubkeys s.cfg.tables key).2
          done := true } } :=
  offerCompleting_total _ hb

/-! ### The obligations about the key schedule -/

/-- Settles O25: a rotation by 1 and one by 2 of its result are one rotation by 3. -/
theorem secondSubkeyIsNetRotationByThree : Obligations.SecondSubkeyIsNetRotationByThree := by
  unfold Obligations.SecondSubkeyIsNetRotationByThree
  intro t key p l0 r0
  have hl : rotl (rotl l0 1) 2 = rotl l0 3 := rotl_rotl l0 1 2
  have hr : rotl (rotl r0 1) 2 = rotl r0 3 := rotl_rotl r0 1 2
  rw [← hl, ← hr]
  rfl

/-- Settles O13: KSCHED is a command that can not fail, and the state it leaves reads back its subkeys. -/
theorem kschedWritesTheSubkeys : Obligations.KschedWritesTheSubkeys := by
  unfold Obligations.KschedWritesTheSubkeys
  exact fun key s hb => ⟨_, exec_ksched key hb, rfl, toNat_readReg_subkeys _⟩

end Sys2Proof.Machine
end

section
/-! The round function: it keeps the right half and undoes itself (rules R80, R81), and ROUND's value is the one
that a host builds from the single commands (program P4 of 95_test_vectors.md). -/

namespace Sys2Proof.Machine

/-! ### The halves of a round (rule R80) -/

@[simp] theorem rightHalf_feistelRound (t : Tables) (d k : Byte) : rightHalf (feistelRound t d k) = rightHalf d :=
  rightHalf_cat _ _

@[simp] theorem leftHalf_feistelRound (t : Tables) (d k : Byte) :
    leftHalf (feistelRound t d k) = roundF t (rightHalf d) k ^^^ leftHalf d :=
  leftHalf_cat _ _

/-- The second round computes the same F from the unchanged right half, and the two cancel in the left half. -/
theorem feistelRound_feistelRound (t : Tables) (d k : Byte) : feistelRound t (feistelRound t d k) k = d := by
  rw [feistelRound, rightHalf_feistelRound, leftHalf_feistelRound, ← BitVec.xor_assoc, BitVec.xor_self,
    BitVec.zero_xor, cat_halves]

/-! ### The state after a command that writes DOUT -/

/-- DOUT holds `v` and DONE is set; all else is as in `s`. -/
def State.withDout (s : State) (v : BitVec 10) : State :=
  { s with block := { s.block with dout := v, done := true } }

section
variable (s : State) (v : BitVec 10)

@[simp] theorem withDout_cfg : (s.withDout v).cfg = s.cfg := rfl
@[simp] theorem withDout_busy : (s.withDout v).block.busy = s.block.busy := rfl
@[simp] theorem withDout_dout : (s.withDout v).block.dout = v := rfl
@[simp] theorem withDout_err : (s.withDout v).block.err = s.block.err := rfl
@[simp] theorem withDout_errCode : (s.withDout v).block.errCode = s.block.errCode := rfl

end

/-- DOUT's value stands in the low bits of its register (rule R22). -/
theorem toNat_readReg_dout (s : State) : (readReg .dout s).1.toNat = s.block.dout.toNat :=
  toNat_place_zero _ (by decide)

/-! ### The commands of program P4 -/

section
variable {s : State} (hb : s.block.busy = false)
include hb

theorem exec_round (data aux : Byte) :
    exec (.round data aux) s = .next (s.withDout ((feistelRound s.cfg.tables data aux).setWidth 10)) :=
  offerCompleting_total _ hb

theorem exec_permEp {val : BitVec 10} {v : BitVec 4} (hval : val = v.setWidth 10) :
    exec (.permEp val) s = .next (s.withDout ((permute v s.cfg.tables.ep 8).setWidth 10)) :=
  hval ▸ offerCompleting_permCommand (by decide) _ _ v hb

theorem exec_permP4 {val : BitVec 10} {v : BitVec 4} (hval : val = v.setWidth 10) :
    exec (.permP4 val) s = .next (s.withDout ((permute v s.cfg.tables.p4 4).setWidth 10)) :=
  hval ▸ offerCompleting_permCommand (by decide) _ _ v hb

theorem exec_sboxA {val : BitVec 10} {h : BitVec 4} (hval : val = h.setWidth 10) :
    exec (.sboxA val) s = .next (s.withDout ((sboxLookup s.cfg.tables.sboxA h).setWidth 10)) :=
  hval ▸ offerCompleting_sboxCommand _ h hb

theorem exec_sboxB {val : BitVec 10} {h : BitVec 4} (hval : val = h.setWidth 10) :
    exec (.sboxB val) s = .next (s.withDout ((sboxLookup s.cfg.tables.sboxB h).setWidth 10)) :=
  hval ▸ offerCompleting_sboxCommand _ h hb

end

/-! ### The host's arithmetic on 10-bit values (rule R12) -/

theorem setWidth_shiftRight_four (d : Byte) : d.setWidth 10 >>> 4 = (leftHalf d).setWidth 10 := by
  revert d; decide

theorem setWidth_and_fifteen (d : Byte) : d.setWidth 10 &&& 0xF#10 = (rightHalf d).setWidth 10 := by
  revert d; decide

theorem setWidth_xor_shiftRight_four (d k : Byte) :
    (d.setWidth 10 ^^^ k.setWidth 10) >>> 4 = (leftHalf (d ^^^ k)).setWidth 10 := by
  rw [← BitVec.setWidth_xor, setWidth_shiftRight_four]

theorem setWidth_xor_and_fifteen (d k : Byte) :
    (d.setWidth 10 ^^^ k.setWidth 10) &&& 0xF#10 = (rightHalf (d ^^^ k)).setWidth 10 := by
  rw [← BitVec.setWidth_xor, setWidth_and_fifteen]

theorem four_mul_add_setWidth (x y : BitVec 2) :
    4#10 * x.setWidth 10 + y.setWidth 10 = (cat x y 4).setWidth 10 := by
  revert x y; decide

theorem sixteen_mul_add_setWidth (x y : BitVec 4) :
    16#10 * x.setWidth 10 + y.setWidth 10 = (cat x y 8).setWidth 10 := by
  revert x y; decide

/-! ### The obligations about the round -/

/-- Settles O26: the right half is kept, so that F cancels in the second round. -/
theorem roundIsItsOwnInverse : Obligations.RoundIsItsOwnInverse := by
  unfold Obligations.RoundIsItsOwnInverse
  exact fun t d k => ⟨rightHalf_feistelRound t d k, feistelRound_feistelRound t d k⟩

/-- Settles O14: once the host's arithmetic is read as halves and joins, each command of P4 computes one line of
rule R80 on an operand that fits its width, and the last value is the round's. -/
theorem roundWritesDout : Obligations.RoundWritesDout := by
  unfold Obligations.RoundWritesDout
  intro data aux s hb
  constructor
  · refine ⟨_, exec_round hb data aux, rfl, ?_⟩
    rw [toNat_readReg_dout, withDout_dout, BitVec.toNat_setWidth_of_le (by decide)]
  · -- the values of rule R80's lines
    let e := permute (rightHalf data) s.cfg.tables.ep 8
    let sa := sboxLookup s.cfg.tables.sboxA (leftHalf (e ^^^ aux))
    let sb := sboxLookup s.cfg.tables.sboxB (rightHalf (e ^^^ aux))
    let f := permute (cat sa sb 4) s.cfg.tables.p4 4
    have idle (v : BitVec 10) : (s.withDout v).block.busy = false := hb
    refine ⟨s.withDout (e.setWidth 10), s.withDout (sa.setWidth 10), s.withDout (sb.setWidth 10),
      s.withDout (f.setWidth 10), s.withDout ((feistelRound s.cfg.tables data aux).setWidth 10),
      exec_permEp hb (setWidth_and_fifteen data), exec_sboxA (idle _) (setWidth_xor_shiftRight_four e aux),
      exec_sboxB (idle _) (setWidth_xor_and_fifteen e aux), exec_permP4 (idle _) (four_mul_add_setWidth sa sb),
      exec_round (idle _) data aux, ?_, rfl, rfl⟩
    rw [withDout_dout, withDout_dout, setWidth_shiftRight_four, setWidth_and_fifteen, ← BitVec.setWidth_xor,
      sixteen_mul_add_setWidth]
    rfl

end Sys2Proof.Machine
end

section
/-! The block cipher: one computation with the two subkeys in either order, which its own reverse order undoes
(rules R82 to R84), and the commands ENC and DEC beside the single commands that build their value (rules R85,
R86). -/

namespace Sys2Proof.Machine

/-! ### The cipher with its subkeys in a given order -/

/-- The lines that rules R82 and R83 share: IP, a round under `a`, the halves swapped, a round under `b`,
IP_INV. -/
def cipher (t : Tables) (a b d : Byte) : Byte :=
  permute (feistelRound t (swap4 (feistelRound t (permute d t.ip 8) a)) b) t.ipInv 8

theorem encrypt_eq_cipher (t : Tables) (p : Byte) (key : Key) :
    encrypt t p key = cipher t (deriveSubkeys t key).1 (deriveSubkeys t key).2 p := rfl

theorem decrypt_eq_cipher (t : Tables) (c : Byte) (key : Key) :
    decrypt t c key = cipher t (deriveSubkeys t key).2 (deriveSubkeys t key).1 c := rfl

/-- IP undoes IP_INV as well: blocks are finitely many, so that the left inverse of IP is its inverse. -/
theorem permute_ip_permute_ipInv {t : Tables} (ht : t.Valid) (v : Byte) :
    permute (permute v t.ipInv 8) t.ip 8 = v := by
  have hleft : Function.LeftInverse (fun d : Byte => permute d t.ipInv 8) fun d : Byte => permute d t.ip 8 :=
    permute_ipInv_permute_ip ht
  exact hleft.rightInverse_of_surjective (Finite.surjective_of_injective hleft.injective) v

/-- With the subkeys in reversed order the cipher undoes itself, its lines being undone from the last to the
first. -/
theorem cipher_cipher {t : Tables} (ht : t.Valid) (a b d : Byte) : cipher t b a (cipher t a b d) = d := by
  rw [cipher, cipher, permute_ip_permute_ipInv ht, feistelRound_feistelRound, swap4_swap4,
    feistelRound_feistelRound, permute_ipInv_permute_ip ht]

theorem decrypt_encrypt {t : Tables} (ht : t.Valid) (p : Byte) (key : Key) :
    decrypt t (encrypt t p key) key = p := by
  rw [encrypt_eq_cipher, decrypt_eq_cipher, cipher_cipher ht]

theorem encrypt_decrypt {t : Tables} (ht : t.Valid) (c : Byte) (key : Key) :
    encrypt t (decrypt t c key) key = c := by
  rw [encrypt_eq_cipher, decrypt_eq_cipher, cipher_cipher ht]

/-! ### Single commands that build the cipher's value -/

theorem setWidth_setWidth_ten (d : Byte) : (d.setWidth 10).setWidth 8 = d := by
  rw [BitVec.setWidth_setWidth_of_le _ (by decide), BitVec.setWidth_eq]

/-- The host's swap of the halves that DOUT shows (rule R12). -/
theorem hostSwap_setWidth (d : Byte) :
    (16#10 * (d.setWidth 10 &&& 0xF#10) + d.setWidth 10 >>> 4).setWidth 8 = swap4 d := by
  rw [setWidth_and_fifteen, setWidth_shiftRight_four, sixteen_mul_add_setWidth, setWidth_setWidth_ten, swap4]

/-- From an idle state, PERM IP, ROUND under `a`, the host's swap, ROUND under `b` and PERM IP_INV leave the
cipher's value in DOUT, and change nothing else but DONE. -/
theorem exec_cipherCommands (a b d : Byte) {s : State} (hb : s.block.busy = false) :
    ∃ i r q : State,
      exec (.permIp (d.setWidth 10)) s = .next i ∧
      exec (.round (i.block.dout.setWidth 8) a) i = .next r ∧
      exec (.round ((16#10 * (r.block.dout &&& 0xF#10) + r.block.dout >>> 4).setWidth 8) b) r = .next q ∧
      exec (.permIpInv q.block.dout) q = .next (s.withDout ((cipher s.cfg.tables a b d).setWidth 10)) := by
  -- the values of the lines before the last
  let x := permute d s.cfg.tables.ip 8
  let y := feistelRound s.cfg.tables x a
  let z := feistelRound s.cfg.tables (swap4 y) b
  have idle (v : BitVec 10) : (s.withDout v).block.busy = false := hb
  refine ⟨s.withDout (x.setWidth 10), s.withDout (y.setWidth 10), s.withDout (z.setWidth 10), exec_permIp d hb,
    ?_, ?_, exec_permIpInv z (idle _)⟩
  · rw [withDout_dout, setWidth_setWidth_ten]
    exact exec_round (idle _) x a
  · rw [withDout_dout, hostSwap_setWidth]
    exact exec_round (idle _) (swap4 y) b

/-! ### The state after ENC and DEC -/

/-- SUBKEYS hold `ks` and DONE is set; all else is as in `s`. -/
def State.withSubkeys (s : State) (ks : Byte × Byte) : State :=
  { s with block := { s.block with k1 := ks.1, k2 := ks.2, done := true } }

@[simp] theorem withSubkeys_busy (s : State) (ks : Byte × Byte) : (s.withSubkeys ks).block.busy = s.block.busy := rfl

theorem toNat_readReg_dout_withDout (s : State) (d : Byte) :
    (readReg .dout (s.withDout (d.setWidth 10))).1.toNat = d.toNat := by
  rw [toNat_readReg_dout, withDout_dout, BitVec.toNat_setWidth_of_le (by decide)]

section
variable (key : Key) (data : Byte) {s : State} (hb : s.block.busy = false)
include hb

theorem exec_enc :
    exec (.enc key data) s = .next ((s.withSubkeys (deriveSubkeys s.cfg.tables key)).withDout
      ((encrypt s.cfg.tables data key).setWidth 10)) :=
  offerCompleting_total _ hb

theorem exec_dec :
    exec (.dec key data) s = .next ((s.withSubkeys (deriveSubkeys s.cfg.tables key)).withDout
      ((decrypt s.cfg.tables data key).setWidth 10)) :=
  offerCompleting_total _ hb

end

/-! ### The obligations about the block cipher -/

/-- Settles O27: decryption is the cipher with the subkeys in reversed order. -/
theorem decryptInvertsEncrypt : Obligations.DecryptInvertsEncrypt := by
  unfold Obligations.DecryptInvertsEncrypt
  exact fun t ht p key => decrypt_encrypt ht p key

/-- Settles O28: decryption under the same key is the inverse on both sides. -/
theorem encryptIsABijection : Obligations.EncryptIsABijection := by
  unfold Obligations.EncryptIsABijection
  intro t ht key
  exact Function.bijective_iff_has_inverse.mpr
    ⟨fun c => decrypt t c key, fun p => decrypt_encrypt ht p key, fun c => encrypt_decrypt ht c key⟩

/-- Settles O15: ENC can not fail and its state reads back its results; after KSCHED the single commands compute
the cipher under K1, then K2, which is the ciphertext. -/
theorem encWritesCiphertextAndSubkeys : Obligations.EncWritesCiphertextAndSubkeys := by
  unfold Obligations.EncWritesCiphertextAndSubkeys
  intro key data s hb
  constructor
  · exact ⟨_, exec_enc key data hb, rfl, toNat_readReg_dout_withDout _ _, toNat_readReg_subkeys _⟩
  · let ks := deriveSubkeys s.cfg.tables key
    have idle : (s.withSubkeys ks).block.busy = false := (withSubkeys_busy s ks).trans hb
    obtain ⟨i, r, q, hi, hr, hq, ho⟩ := exec_cipherCommands ks.1 ks.2 data idle
    exact ⟨_, i, r, q, _, _, exec_ksched key hb, hi, hr, hq, ho, exec_enc key data idle, rfl, rfl, rfl, rfl, rfl⟩

/-- Settles O16: DEC can not fail and its state reads back its results; after KSCHED the single commands compute
the cipher under K2, then K1, which is the plaintext. -/
theorem decWritesPlaintextAndSubkeys : Obligations.DecWritesPlaintextAndSubkeys := by
  unfold Obligations.DecWritesPlaintextAndSubkeys
  intro key data s hb
  constructor
  · exact ⟨_, exec_dec key data hb, rfl, toNat_readReg_dout_withDout _ _, toNat_readReg_subkeys _⟩
  · let ks := deriveSubkeys s.cfg.tables key
    have idle : (s.withSubkeys ks).block.busy = false := (withSubkeys_busy s ks).trans hb
    obtain ⟨i, r, q, hi, hr, hq, ho⟩ := exec_cipherCommands ks.2 ks.1 data idle
    exact ⟨_, i, r, q, _, _, exec_ksched key hb, hi, hr, hq, ho, exec_dec key data idle, rfl, rfl, rfl, rfl, rfl⟩

end Sys2Proof.Machine
end

section
/-! The pair table and the start of a search: PCLR, PADD and SEARCH's acceptance (rules R88 to R90), and the
candidates of a table as the conjunction over its pairs (rule R87). -/

namespace Sys2Proof.Machine

/-! ### The candidates of a pair table (rule R87) -/

theorem candidateOver_eq_true_iff {t : Tables} {ps cs : List Byte} {n : Nat} {k : Key} :
    candidateOver t ps cs n k = true ↔ ∀ i < n, encrypt t (ps.getD i 0) k = cs.getD i 0 := by
  simp [candidateOver]

/-- The candidates of a table in two parts are those of both. -/
theorem candidateOver_append (t : Tables) {ps cs : List Byte} (ps' cs' : List Byte) (h : cs.length = ps.length)
    (k : Key) : candidateOver t (ps ++ ps') (cs ++ cs') (ps ++ ps').length k =
      (candidateOver t ps cs ps.length k && candidateOver t ps' cs' ps'.length k) := by
  simp only [candidateOver, List.length_append, List.range_add, List.all_append, List.all_map]
  congr 1
  · rw [Bool.eq_iff_iff, List.all_eq_true, List.all_eq_true]
    refine forall₂_congr fun i hi => ?_
    have hlt : i < ps.length := List.mem_range.mp hi
    rw [List.getD_append _ _ _ _ hlt, List.getD_append _ _ _ _ (h ▸ hlt)]
  · refine List.all_congr rfl fun i => ?_
    have hge : ps.length ≤ ps.length + i := Nat.le_add_right ..
    rw [Function.comp_apply, List.getD_append_right _ _ _ _ hge, List.getD_append_right _ _ _ _ (h ▸ hge), h,
      Nat.add_sub_cancel_left]

/-- Settles O56: a pair that a table holds already, appended to it, is a part that asks nothing new. -/
theorem candidatesAreAConjunction : Obligations.CandidatesAreAConjunction := by
  unfold Obligations.CandidatesAreAConjunction
  intro t ps cs ps' cs' h _ cand
  refine ⟨fun k0 hk => candidateOver_eq_true_iff.mpr fun i hi => (hk i hi).symm, fun k i hi => ?_,
    fun k i j hi hj hp hc => ?_, candidateOver_append t ps' cs' h⟩
  · refine (candidateOver_append t _ _ h k).trans (Bool.and_eq_left_iff_imp.mpr fun hk => ?_)
    have hpair := candidateOver_eq_true_iff.mp hk i hi
    exact candidateOver_eq_true_iff.mpr fun
      | 0, _ => hpair
      | j + 1, hj => by simp at hj
  · refine Bool.eq_false_iff.mpr fun hk => hc ?_
    have hall := candidateOver_eq_true_iff.mp hk
    rw [← hall i hi, ← hall j hj, hp]

/-! ### The pair table (rules R30, R31) -/

/-- The PAIR window (rule R30). -/
theorem toNat_readReg_pair (i : Fin 64) (s : State) :
    (readReg (.pair i) s).1.toNat = 256 * (s.block.pairC.getD i 0).toNat + (s.block.pairP.getD i 0).toNat :=
  toNat_two_bytes _ _

theorem getD_set {α : Type} (l : List α) {n : Nat} (hn : n < l.length) (x d : α) (i : Nat) :
    (l.set n x).getD i d = if i = n then x else l.getD i d := by
  rw [List.getD_eq_getElem?_getD, List.getD_eq_getElem?_getD, List.getElem?_set]
  by_cases h : n = i
  · subst h
    simp [hn]
  · rw [if_neg h, if_neg (Ne.symm h)]

/-- PAIRCNT has room for MAX_PAIRS (rules R7, R24). -/
theorem toNat_pairCnt_add_one {p : Params} (hp : p.Valid) {n : BitVec 7} (h : n.toNat < p.maxPairs) :
    (n + 1).toNat = n.toNat + 1 := by
  have hmax : p.maxPairs ≤ 64 := hp.2.1.2
  rw [BitVec.toNat_add_of_lt (by rw [show (1 : BitVec 7).toNat = 1 from rfl]; omega)]
  rfl

/-! ### The commands -/

/-- Settles O20: PCLR can not fail. -/
theorem pclrEmptiesThePairTable : Obligations.PclrEmptiesThePairTable := by
  unfold Obligations.PclrEmptiesThePairTable
  exact fun s hb => offerCompleting_total _ hb

/-- PADD on a table with room appends its pair (rule R89). -/
theorem exec_padd_room (p c : Byte) {s : State} (hb : s.block.busy = false)
    (hroom : pairTableFull s.cfg s.block = false) :
    exec (.padd p c) s = .next { s with block := complete (appendPair p c (clearDone s.block)) } :=
  offerCompleting_ok hb (by simp [hroom])

/-- PADD on a full table fails (rule R89). -/
theorem exec_padd_full (p c : Byte) {s : State} (hb : s.block.busy = false)
    (hfull : pairTableFull s.cfg s.block = true) :
    exec (.padd p c) s = .next { s with block := raiseCmdError .pairTableFull s.block } :=
  offerCompleting_error hb (by simp [hfull])

/-- Settles O21: the table has MAX_PAIRS entries, so that the entry at PAIRCNT is written when there is room. -/
theorem paddAppendsThePair : Obligations.PaddAppendsThePair := by
  unfold Obligations.PaddAppendsThePair
  intro p c s hinv hb
  refine ⟨fun hlt => ?_, fun hfull => exec_padd_full p c hb (by simpa [pairTableFull] using hfull)⟩
  refine ⟨_, exec_padd_room p c hb (by simpa [pairTableFull] using hlt.ne), rfl,
    toNat_pairCnt_add_one hinv.cfg hlt, fun i => ?_⟩
  have hP := getD_set s.block.pairP (hinv.block.pairP_length ▸ hlt) p 0 i
  have hC := getD_set s.block.pairC (hinv.block.pairC_length ▸ hlt) c 0 i
  rw [toNat_readReg_pair, toNat_readReg_pair]
  simp only [complete_pairP, complete_pairC, appendPair_pairP, appendPair_pairC, clearDone_pairP, clearDone_pairC,
    clearDone_pairCnt, hP, hC]
  split <;> rfl

/-- SEARCH on an empty table fails (rule R90). -/
theorem exec_search_empty (workers : Nat) {s : State} (hb : s.block.busy = false) (hempty : s.block.pairCnt = 0) :
    exec (.search workers) s = .next { s with block := raiseCmdError .emptyPairSet s.block } := by
  rw [exec, execSearch, offer_idle _ hb, accept_error (e := .emptyPairSet) (by simp [pairTableEmpty, hempty]),
    raiseCmdError_clearDone]

/-- The keyspace holds each key once. -/
theorem allKeys_nodup : allKeys.Nodup :=
  allKeys_ascending.imp fun hlt e => Nat.ne_of_lt hlt (congrArg _ e)

/-- Settles O22: every key becomes pending, and the keyspace holds each key once. -/
theorem searchStartsTheScan : Obligations.SearchStartsTheScan := by
  unfold Obligations.SearchStartsTheScan
  intro workers s _ hb
  refine ⟨fun hpair => ⟨_, execSearch_starts workers hb hpair, ?_, ?_⟩, exec_search_empty workers hb⟩
  · rw [startSearch_pending]
    rfl
  · rw [startSearch_pending]
    exact ⟨mem_allKeys, allKeys_nodup⟩

end Sys2Proof.Machine
end

section
/-! The running search: what a given turn and a step without a turn do, what every step of a search keeps, and how
a search ends (rules R91 to R95). -/

namespace Sys2Proof.Machine

/-! ### Which steps of the block are enabled -/

theorem laneEnabled_iff (l : Nat) (b : Block) :
    laneEnabled l b = true ↔ b.busy = true ∧ b.pending ≠ [] ∧ l < b.activeLanes := by
  simp [laneEnabled, and_assoc]

theorem joinEnabled_iff (b : Block) : joinEnabled b = true ↔ b.busy = true ∧ b.pending = [] := by
  simp [joinEnabled]

/-! ### The step, by the turn that is next -/

section
variable {s : State} {ts : List Turn}

/-- A given turn is taken. -/
theorem step_of_turn {t : Turn} (h : s.turns = t :: ts) : step s = takeTurn t { s with turns := ts } := by
  rw [step, nextMove, h]

/-- With no turn given a running search moves (rule R94's fairness, log entry 4). -/
theorem step_of_busy (h : s.turns = []) (hb : s.block.busy = true) : step s = searchMove s := by
  rw [step, nextMove, h]
  exact if_pos hb

/-- With no turn given and no search running, the host moves. -/
theorem step_of_idle (h : s.turns = []) (hb : s.block.busy = false) : step s = hostTurn s := by
  rw [step, nextMove, h]
  exact if_neg (by simp [hb])

theorem step_lane_enabled {l c : Nat} (h : s.turns = .lane l c :: ts) (hl : laneEnabled l s.block = true) :
    step s = .next (laneMove c { s with turns := ts }) := by
  rw [step_of_turn h, takeTurn, if_pos hl]

theorem step_lane_passes {l c : Nat} (h : s.turns = .lane l c :: ts) (hl : ¬ laneEnabled l s.block = true) :
    step s = .next { s with turns := ts } := by
  rw [step_of_turn h, takeTurn, if_neg hl]

theorem step_join_enabled (h : s.turns = .join :: ts) (hj : joinEnabled s.block = true) :
    step s = .next (joinMove { s with turns := ts }) := by
  rw [step_of_turn h, takeTurn, if_pos hj]

theorem step_join_passes (h : s.turns = .join :: ts) (hj : ¬ joinEnabled s.block = true) :
    step s = .next { s with turns := ts } := by
  rw [step_of_turn h, takeTurn, if_neg hj]

/-- With no turn given and nothing pending, the search joins. -/
theorem searchMove_join (hb : s.block.busy = true) (hp : s.block.pending = []) :
    searchMove s = .next (joinMove s) := by
  rw [searchMove, if_pos ((joinEnabled_iff _).mpr ⟨hb, hp⟩)]

/-- With no turn given and keys pending, lane 0 checks one. -/
theorem searchMove_lane (hinv : s.Inv) (hb : s.block.busy = true) (hp : s.block.pending ≠ []) :
    searchMove s = .next { laneMove (Config.freeChoice s.draws) s with draws := s.draws + 1 } := by
  have hlane : laneEnabled 0 s.block = true := (laneEnabled_iff _ _).mpr ⟨hb, hp, hinv.block.lanes_range.1⟩
  have hjoin : ¬ joinEnabled s.block = true := fun h => hp ((joinEnabled_iff _).mp h).2
  rw [searchMove, if_neg hjoin, if_pos hlane]

end

/-- From a state of the invariant the machine takes a step, which takes the turn that is next off the list. -/
theorem step_next {s : State} (hinv : s.Inv) : ∃ t, step s = .next t ∧ t.turns = s.turns.tail := by
  cases hts : s.turns with
  | cons turn ts =>
    rw [step_of_turn hts]
    cases turn with
    | host =>
      obtain ⟨t, ht, -, hturns⟩ := hostTurn_next { s with turns := ts }
      exact ⟨t, ht, hturns⟩
    | lane l c => exact ⟨_, rfl, by split <;> rfl⟩
    | join => exact ⟨_, rfl, by split <;> rfl⟩
    | reset => exact ⟨_, rfl, rfl⟩
  | nil =>
    cases hb : s.block.busy with
    | false =>
      obtain ⟨t, ht, -, hturns⟩ := hostTurn_next s
      exact ⟨t, (step_of_idle hts hb).trans ht, hturns.trans hts⟩
    | true =>
      rw [step_of_busy hts hb]
      by_cases hp : s.block.pending = []
      · exact ⟨_, searchMove_join hb hp, hts⟩
      · exact ⟨_, searchMove_lane hinv hb hp, hts⟩

/-! ### What every step of a search keeps -/

/-- The parameters and the pair table of `t` are those of `s`. -/
structure SamePairs (s t : State) : Prop where
  cfg : t.cfg = s.cfg
  pairCnt : t.block.pairCnt = s.block.pairCnt
  pairP : t.block.pairP = s.block.pairP
  pairC : t.block.pairC = s.block.pairC

theorem SamePairs.refl (s : State) : SamePairs s s := ⟨rfl, rfl, rfl, rfl⟩

theorem SamePairs.trans {s t u : State} (h : SamePairs s t) (h' : SamePairs t u) : SamePairs s u :=
  ⟨h'.cfg.trans h.cfg, h'.pairCnt.trans h.pairCnt, h'.pairP.trans h.pairP, h'.pairC.trans h.pairC⟩

/-- The candidates depend on the parameters and the pair table alone (rule R87). -/
theorem SamePairs.candidate {s t : State} (h : SamePairs s t) :
    candidate t.cfg.tables t.block = candidate s.cfg.tables s.block := by
  funext k
  rw [Machine.candidate, Machine.candidate, h.cfg, h.pairCnt, h.pairP, h.pairC]

/-- Settles O52: the host, a key check and the join change other fields, and a key check only takes a key out of
SEARCH_PENDING. -/
theorem nothingDisturbsARunningSearch : Obligations.NothingDisturbsARunningSearch := by
  unfold Obligations.NothingDisturbsARunningSearch
  intro s t hb hr h
  obtain hsame | ⟨c, hlane⟩ | ⟨-, e, hjoin⟩ := step_busy_cases hb hr h
  · exact ⟨hsame.pairCnt, hsame.pairP, hsame.pairC, hsame.activeLanes, hsame.dout, hsame.k1, hsame.k2,
      fun k hk => hsame.pending ▸ hk⟩
  · obtain ⟨-, hstay⟩ | ⟨k, -, -, hcheck⟩ := laneStep_cases s.cfg.tables c s.block
    · rw [hlane, hstay]
      exact ⟨rfl, rfl, rfl, rfl, rfl, rfl, rfl, fun _ => id⟩
    · rw [hlane, hcheck]
      exact ⟨rfl, rfl, rfl, rfl, rfl, rfl, rfl, fun _ => List.mem_of_mem_erase⟩
  · rw [hjoin]
    exact ⟨rfl, rfl, rfl, rfl, rfl, rfl, rfl, fun _ => id⟩

/-- No step of a running search but reset changes its pair table. -/
theorem step_samePairs {s t : State} (hb : s.block.busy = true) (hr : s.turns.head? ≠ some .reset)
    (h : step s = .next t) : SamePairs s t := by
  obtain ⟨hcnt, hP, hC, -⟩ := nothingDisturbsARunningSearch s t hb hr h
  exact ⟨parametersNeverChange s t h, hcnt, hP, hC⟩

/-- A running search is ended by the join alone, reset apart. -/
theorem step_ends_search {s t : State} (hb : s.block.busy = true) (hr : s.turns.head? ≠ some .reset)
    (h : step s = .next t) (hend : t.block.busy = false) :
    s.block.pending = [] ∧ ∃ e, t.block = joinStep e s.block := by
  obtain hsame | ⟨c, hlane⟩ | hjoin := step_busy_cases hb hr h
  · simp [hsame.busy, hb] at hend
  · simp [hlane, laneStep_busy, hb] at hend
  · exact hjoin

/-- Of turns without a reset the first is none. -/
theorem head?_ne_reset {turns : List Turn} {n : Nat} (h : ∀ turn ∈ turns.take (n + 1), turn ≠ .reset) :
    turns.head? ≠ some .reset := by
  cases turns with
  | nil => nofun
  | cons turn ts => exact fun e => h turn (by simp) (Option.some.inj e)

/-- A search whose next `n + 1` turns hold no reset and that still runs after `n` steps has kept the invariant and
its pair table. -/
theorem run_keeps_search {n : Nat} {s u : State} (hinv : s.Inv)
    (hturns : ∀ turn ∈ s.turns.take (n + 1), turn ≠ .reset)
    (hbusy : ∀ m ≤ n, ∀ v : State, core.run m s = .next v → v.block.busy = true)
    (hrun : core.run n s = .next u) :
    u.Inv ∧ SamePairs s u ∧ u.block.busy = true ∧ u.turns.head? ≠ some .reset := by
  induction n generalizing s with
  | zero =>
    obtain rfl : s = u := Host.Outcome.next.inj hrun
    exact ⟨hinv, .refl _, hbusy 0 (Nat.le_refl _) s rfl, head?_ne_reset hturns⟩
  | succ n ih =>
    obtain ⟨t, hstep, htail⟩ := step_next hinv
    have hpairs : SamePairs s t := step_samePairs (hbusy 0 (Nat.zero_le _) s rfl) (head?_ne_reset hturns) hstep
    have htake : ∀ turn ∈ t.turns.take (n + 1), turn ≠ .reset := fun turn hmem =>
      hturns turn (List.mem_of_mem_tail (by rwa [List.tail_take_eq_take_tail, Nat.add_sub_cancel, ← htail]))
    obtain ⟨hu, hpairs', hb, hr⟩ := ih (everyStepKeepsTheInvariant s t hinv hstep) htake
      (fun m hm v hv => hbusy (m + 1) (by omega) v ((run_succ hstep).trans hv)) ((run_succ hstep).symm.trans hrun)
    exact ⟨hu, hpairs.trans hpairs', hb, hr⟩

/-! ### The results of a search -/

/-- When every key is checked the match map is the candidate set (rule R91). -/
theorem matchMap_eq_candidate {s : State} (hinv : s.Inv) (hb : s.block.busy = true) (hp : s.block.pending = [])
    (k : Key) : s.block.matchMap.getLsbD k.toNat = candidate s.cfg.tables s.block k := by
  rw [hinv.block.busy_match hb k, hp]
  rfl

/-- The number of matches fits MATCHCNT (rule R25). -/
theorem toNat_joinStep_matchCnt (e : Word) (b : Block) :
    (joinStep e b).matchCnt.toNat = (resultList b.matchMap).length := by
  have := matchCount_le b.matchMap
  rw [joinStep_matchCnt, BitVec.toNat_ofNat, Nat.mod_eq_of_lt (by omega), matchCount]

/-- RKEY of an idle block shows VALID and the entry of RESULT_LIST at RIDX (rule R29). -/
theorem toNat_readReg_rkey {s : State} {k : Key} (hb : s.block.busy = false)
    (hcnt : s.block.matchCnt.toNat = (resultList s.block.matchMap).length)
    (hk : (resultList s.block.matchMap)[s.block.ridx.toNat]? = some k) :
    (readReg .rkey s).1.toNat = 2 ^ 31 + k.toNat := by
  obtain ⟨hlt, -⟩ := List.getElem?_eq_some_iff.mp hk
  have hkey : (place k 0).toNat = k.toNat := toNat_place_zero k (by decide)
  rw [readReg_rkey_idle hb, readRkey, if_pos (hcnt ▸ hlt), hk,
    toNat_place_or _ _ (by decide) (by rw [hkey]; omega), hkey]
  rfl

/-- Settles O53: the last step is the join of a search that has kept its pair table and has checked every key. -/
theorem searchFindsExactlyTheCandidates : Obligations.SearchFindsExactlyTheCandidates := by
  unfold Obligations.SearchFindsExactlyTheCandidates
  intro n s u t hinv hturns hbusy hrun hstep hend cand
  obtain ⟨hu, hpairs, hub, hur⟩ := run_keeps_search hinv hturns hbusy hrun
  obtain ⟨hp, e, hjoin⟩ := step_ends_search hub hur hstep hend
  have hmatch : ∀ k : Key, u.block.matchMap.getLsbD k.toNat = cand k := fun k =>
    (matchMap_eq_candidate hu hub hp k).trans (congrFun hpairs.candidate k)
  have hlist : resultList u.block.matchMap = allKeys.filter cand := resultList_eq_filter _ _ hmatch
  have hcnt := toNat_joinStep_matchCnt e u.block
  rw [hjoin]
  refine ⟨hmatch, hcnt.trans (congrArg _ hlist), fun j k hjk => ?_, rfl, hpairs.pairCnt, hpairs.pairP, hpairs.pairC⟩
  exact toNat_readReg_rkey rfl hcnt (by rw [← hlist] at hjk; exact hjk)

/-! ### How long a search takes -/

/-- A running search with no turn given ends after one step for each pending key and one join, with DONE and the
candidates in MATCH. -/
theorem run_ends_search {n : Nat} {s : State} (hinv : s.Inv) (hb : s.block.busy = true) (hts : s.turns = [])
    (hn : s.block.pending.length = n) :
    ∃ t, core.run (n + 1) s = .next t ∧ t.block.busy = false ∧ t.block.done = true ∧
      ∀ k : Key, t.block.matchMap.getLsbD k.toNat = candidate s.cfg.tables s.block k := by
  induction n generalizing s with
  | zero =>
    have hp : s.block.pending = [] := List.length_eq_zero_iff.mp hn
    have hstep : step s = .next (joinMove s) := (step_of_busy hts hb).trans (searchMove_join hb hp)
    exact ⟨joinMove s, run_succ hstep, rfl, rfl, fun k => matchMap_eq_candidate hinv hb hp k⟩
  | succ n ih =>
    have hp : s.block.pending ≠ [] := List.ne_nil_of_length_eq_add_one hn
    have hstep := (step_of_busy hts hb).trans (searchMove_lane hinv hb hp)
    have hpairs := step_samePairs hb (by rw [hts]; nofun) hstep
    obtain ⟨t, hrun, hend, hdone, hmatch⟩ := ih (everyStepKeepsTheInvariant _ _ hinv hstep)
      ((laneStep_busy _ _ _).trans hb) hts (by rw [laneMove_block, laneStep_pending_length, hn, Nat.add_sub_cancel])
    exact ⟨t, (run_succ hstep).trans hrun, hend, hdone,
      fun k => (hmatch k).trans (congrFun hpairs.candidate k)⟩

/-- SEARCH_PENDING holds at most the keyspace (rule R33). -/
theorem pending_length_le {p : Params} {b : Block} (h : b.Inv p) : b.pending.length ≤ 1024 :=
  ((pending_nodup h).subperm fun k _ => mem_allKeys k).length_le.trans_eq allKeys_length

/-- From a state of the invariant the block is idle at some point after the given turns and one search. -/
theorem run_reaches_idle {s : State} (hinv : s.Inv) :
    ∃ n ≤ s.turns.length + 1025, ∃ t, core.run n s = .next t ∧ t.block.busy = false := by
  induction hts : s.turns generalizing s with
  | nil =>
    cases hb : s.block.busy with
    | false => exact ⟨0, Nat.zero_le _, s, rfl, hb⟩
    | true =>
      obtain ⟨t, hrun, hend, -⟩ := run_ends_search hinv hb hts rfl
      have := pending_length_le hinv.block
      exact ⟨_, by rw [List.length_nil]; omega, t, hrun, hend⟩
  | cons turn ts ih =>
    obtain ⟨t, hstep, htail⟩ := step_next hinv
    obtain ⟨n, hn, u, hrun, hend⟩ := ih (everyStepKeepsTheInvariant s t hinv hstep) (by rw [htail, hts]; rfl)
    exact ⟨n + 1, by rw [List.length_cons]; omega, u, (run_succ hstep).trans hrun, hend⟩

/-- Settles O54: the block's own steps end a search, and a given turn is used up by one step. -/
theorem everySearchEnds : Obligations.EverySearchEnds := by
  unfold Obligations.EverySearchEnds
  exact ⟨fun s hinv hb hts => run_ends_search hinv hb hts rfl, fun s hinv => run_reaches_idle hinv⟩

/-! ### The obligations about single steps -/

/-- Settles O49: every turn has a next state, and a running search without a turn has its join or lane 0 enabled. -/
theorem theMachineNeverStops : Obligations.TheMachineNeverStops := by
  unfold Obligations.TheMachineNeverStops
  intro s hinv
  obtain ⟨t, hstep, -⟩ := step_next hinv
  exact ⟨t, hstep⟩

/-- A lane's turn with its step enabled is the check of the pending key that the choice picks. -/
theorem step_checkKey {s : State} {ts : List Turn} {l c : Nat} {k : Key} (h : s.turns = .lane l c :: ts)
    (hl : laneEnabled l s.block = true) (hk : pickPending c s.block = some k) :
    step s = .next { s with turns := ts, block := checkKey s.cfg.tables k s.block } := by
  rw [step_lane_enabled h hl, laneMove, laneStep, hk]

/-- Settles O50: an enabled lane checks the key that its choice picks. -/
theorem laneStepChecksOnePendingKey : Obligations.LaneStepChecksOnePendingKey := by
  unfold Obligations.LaneStepChecksOnePendingKey
  intro s ts l
  rw [← laneEnabled_iff]
  refine ⟨fun hl => ⟨fun c hts => ?_, fun k hk => ?_⟩, fun hl c hts => step_lane_passes hts hl⟩
  · obtain ⟨k, hk⟩ := pickPending_isSome c ((laneEnabled_iff _ _).mp hl).2.1
    exact ⟨k, pickPending_mem hk, _, step_checkKey hts hl hk, fun j => getLsbD_setMatch _ k j _⟩
  · obtain ⟨c, hc⟩ := exists_choice hk
    refine ⟨c, fun t hstep => ?_⟩
    have hcheck := step_checkKey (s := { s with turns := .lane l c :: ts }) rfl hl hc
    obtain rfl := Host.Outcome.next.inj (hcheck.symm.trans hstep)
    rfl

/-- Settles O51: MATCHCNT has room for the number of matches, so that it is that number. -/
theorem joinPublishesTheCount : Obligations.JoinPublishesTheCount := by
  unfold Obligations.JoinPublishesTheCount
  intro s ts hts
  rw [← joinEnabled_iff]
  exact ⟨fun hj => ⟨_, toNat_joinStep_matchCnt 0 s.block, step_join_enabled hts hj⟩,
    fun hj => step_join_passes hts hj⟩

end Sys2Proof.Machine
end

section
/-! The host adapter: bit strings and the values they spell (rules R96, R97), the run of an operation that makes one
command (rules R98, R99), and the cutting of the pairs into chunks (rule R100). -/

namespace Sys2Proof.Machine

/-! ### The value of a bit string (rule R96) -/

/-- The value that `parseBits` answers for a string of `w` binary digits. -/
def bitStringValue (w : Nat) (cs : List Char) : BitVec w := (BitVec.ofBoolListBE (cs.map (· == '1'))).setWidth w

theorem all_isBinaryChar_iff (cs : List Char) : cs.all isBinaryChar = true ↔ ∀ c ∈ cs, c = '0' ∨ c = '1' := by
  simp [isBinaryChar]

/-- The character check comes first. -/
theorem parseBits_of_badChar {cs : List Char} (w : Nat) (e : ErrorKind) (h : ∃ c ∈ cs, c ≠ '0' ∧ c ≠ '1') :
    parseBits cs w e = .error .invalidBitString := by
  have hbad : ¬ cs.all isBinaryChar = true := by
    rw [all_isBinaryChar_iff]
    push Not
    exact h
  rw [parseBits, if_neg hbad]

/-- Binary digits of another number fail with the given error. -/
theorem parseBits_of_wrongLength {cs : List Char} {w : Nat} (e : ErrorKind) (h : ∀ c ∈ cs, c = '0' ∨ c = '1')
    (hlen : cs.length ≠ w) : parseBits cs w e = .error e := by
  rw [parseBits, if_pos ((all_isBinaryChar_iff cs).mpr h), if_neg hlen]

theorem parseBits_of_bits {cs : List Char} {w : Nat} (e : ErrorKind) (h : ∀ c ∈ cs, c = '0' ∨ c = '1')
    (hlen : cs.length = w) : parseBits cs w e = .ok (bitStringValue w cs) := by
  rw [parseBits, if_pos ((all_isBinaryChar_iff cs).mpr h), if_pos hlen, bitStringValue]

/-- Character j from the left is bit w−1−j. -/
theorem getLsbD_bitStringValue {cs : List Char} {w j : Nat} (hlen : cs.length = w) (hj : j < w) :
    (bitStringValue w cs).getLsbD (w - 1 - j) = (cs.getD j '0' == '1') := by
  subst hlen
  have hflip : cs.length - 1 - (cs.length - 1 - j) = j := by omega
  have hbit : cs.length - 1 - j < cs.length := by omega
  simp [bitStringValue, hflip, hbit, hj]

/-! ### The string of a value (rule R97) -/

@[simp] theorem length_renderBits {w : Nat} (v : BitVec w) : (renderBits v).length = w := by simp [renderBits]

theorem getElem_renderBits {w j : Nat} (v : BitVec w) (h : j < (renderBits v).length) :
    (renderBits v)[j] = if v.getLsbD (w - 1 - j) then '1' else '0' := by
  simp [renderBits]

theorem getD_renderBits {w j : Nat} (v : BitVec w) (hj : j < w) :
    (renderBits v).getD j '0' = if v.getLsbD (w - 1 - j) then '1' else '0' := by
  rw [List.getD_eq_getElem _ _ ((length_renderBits v).symm ▸ hj), getElem_renderBits]

theorem mem_renderBits {w : Nat} {v : BitVec w} {c : Char} (h : c ∈ renderBits v) : c = '0' ∨ c = '1' := by
  obtain ⟨j, -, rfl⟩ := List.mem_map.mp h
  split
  · exact .inr rfl
  · exact .inl rfl

/-- Rendering writes back each binary digit. -/
theorem renderBits_bitStringValue {cs : List Char} {w : Nat} (h : ∀ c ∈ cs, c = '0' ∨ c = '1')
    (hlen : cs.length = w) : renderBits (bitStringValue w cs) = cs := by
  refine List.ext_getElem ((length_renderBits _).trans hlen.symm) fun j hj hj' => ?_
  rw [getElem_renderBits, getLsbD_bitStringValue hlen (hlen ▸ hj'), List.getD_eq_getElem _ _ hj']
  rcases h _ (List.getElem_mem hj') with h0 | h1
  · simp [h0]
  · simp [h1]

/-- Each bit is read back from its character. -/
theorem bitStringValue_renderBits {w : Nat} (v : BitVec w) : bitStringValue w (renderBits v) = v := by
  refine BitVec.eq_of_getMsbD_eq fun j hj => ?_
  rw [BitVec.getMsbD_eq_getLsbD, BitVec.getMsbD_eq_getLsbD, getLsbD_bitStringValue (length_renderBits v) hj,
    getD_renderBits v hj]
  cases v.getLsbD (w - 1 - j) <;> rfl

/-! ### One host line of an idle block -/

/-- The host's program is `ls`; all else is as in `s`. -/
def State.withProg (s : State) (ls : List HostLine) : State := { s with host := { s.host with prog := ls } }

section
variable {s : State}

/-- With no turn given and no search running, the host performs its next line. -/
theorem step_withProg {l : HostLine} {ls : List HostLine} (hturns : s.turns = []) (hb : s.block.busy = false) :
    step (s.withProg (l :: ls)) = runLine l (s.withProg ls) :=
  step_of_idle hturns hb

/-- STATUS[0] is BUSY (rule R20). -/
theorem getLsbD_statusWord_zero (b : Block) : (statusWord b).getLsbD 0 = b.busy := by
  simp [statusWord, place]

/-- A wait that reads BUSY = 0 ends (rule R63). -/
theorem runLine_waitIdle (hb : s.block.busy = false) :
    runLine .waitIdle s = .next (record (readAccess s.cfg .status) (.data (statusWord s.block)) s) := by
  have hends : (statusWord s.block).getLsbD 0 = false := (getLsbD_statusWord_zero _).trans hb
  rw [runLine, performAccess_read]
  exact congrArg Host.Outcome.next (if_neg (ne_true_of_eq_false hends))

/-- A well-formed command line offers its instruction to the block and records the write. -/
theorem runLine_cmd {i : Instr} (hi : i.wellFormed = true) :
    runLine (.cmd i) s = mapNext (record (writeAccess s.cfg .cmd (encode i)) .written) (exec i s) := by
  rw [runLine, if_pos hi, performAccess_write, writeReg, writeCmd_encode hi]

end

/-! ### The program of rules R98 and R99 -/

/-- The byte that DOUT holds is read back (rule R22). -/
theorem extractLsb'_place_setWidth (d : Byte) : (place (d.setWidth 10) 0).extractLsb' 0 8 = d := by
  revert d; decide

/-- The program of a command that completes with `d` in DOUT makes three accesses (the wait, the command, the read of
DOUT) and returns `d` rendered. -/
theorem cipherLines_run {i : Instr} {s : State} {b : Block} {d : Byte} (hi : i.wellFormed = true)
    (hturns : s.turns = []) (hidle : s.block.busy = false)
    (hexec : ∀ h, exec i { s with host := h } = .next { s with host := h, block := b })
    (hb : b.busy = false) (hdout : b.dout = d.setWidth 10) :
    ∃ t, core.run 3 (s.withProg (cipherLines i)) = .next t ∧ t.host.prog = [] ∧
      t.host.trace.length = s.host.trace.length + 3 ∧ cipherResult t.host = some (renderBits d) := by
  -- the states after the wait, the command and the read
  let waited := record (readAccess s.cfg .status) (.data (statusWord s.block)) (s.withProg [.cmd i, .rd .dout])
  let commanded := record (writeAccess s.cfg .cmd (encode i)) .written { waited.withProg [.rd .dout] with block := b }
  let answered := record (readAccess s.cfg .dout) (.data (place b.dout 0)) (commanded.withProg [])
  have hwait : step (s.withProg (cipherLines i)) = .next waited :=
    (step_withProg hturns hidle).trans (runLine_waitIdle hidle)
  have hcmd : step waited = .next commanded :=
    (step_withProg (s := waited) hturns hidle).trans ((runLine_cmd hi).trans (congrArg (mapNext _) (hexec _)))
  have hread : step commanded = .next answered :=
    (step_withProg (s := commanded) hturns hb).trans (performAccess_read .dout _)
  refine ⟨answered, (run_succ hwait).trans ((run_succ hcmd).trans (run_succ hread)), rfl, rfl, ?_⟩
  show some (renderBits ((place b.dout 0).extractLsb' 0 8)) = some (renderBits d)
  rw [hdout, extractLsb'_place_setWidth]

/-! ### The chunks of the host operation `search` (rule R100) -/

/-- The chunk being filled begins what is still to be given out. -/
theorem flatten_chunksFrom {α : Type} (n : Nat) (filling xs : List α) :
    (chunksFrom n filling xs).flatten = filling ++ xs := by
  induction xs generalizing filling with
  | nil => cases filling <;> rfl
  | cons x xs ih =>
    rw [chunksFrom]
    split
    · rw [ih, List.append_assoc, List.singleton_append]
    · rw [List.flatten_cons, ih, List.singleton_append]

/-- A chunk is given out when it is full, or at the end if it holds a pair. -/
theorem mem_chunksFrom {α : Type} {n : Nat} (hn : 1 ≤ n) {filling xs chunk : List α} (hfill : filling.length ≤ n)
    (h : chunk ∈ chunksFrom n filling xs) : chunk ≠ [] ∧ chunk.length ≤ n := by
  induction xs generalizing filling with
  | nil =>
    cases filling with
    | nil => cases h
    | cons y ys =>
      obtain rfl := List.mem_singleton.mp h
      exact ⟨List.cons_ne_nil y ys, hfill⟩
  | cons x xs ih =>
    rw [chunksFrom] at h
    split at h
    next hroom => exact ih (by simpa using hroom) h
    next hfull =>
      rcases List.mem_cons.mp h with rfl | hlater
      · exact ⟨List.ne_nil_of_length_pos (by omega), hfill⟩
      · exact ih (filling := [x]) hn hlater

/-! ### The obligations about the host adapter -/

/-- Settles O57: the two checks of parsing come in their order, and the positional value and the rendered string
determine each other digit by digit. -/
theorem parseAndRenderAreInverse : Obligations.ParseAndRenderAreInverse := by
  unfold Obligations.ParseAndRenderAreInverse
  constructor
  · intro cs w e
    exact ⟨parseBits_of_badChar w e, parseBits_of_wrongLength e, fun hbits hlen =>
      ⟨_, parseBits_of_bits e hbits hlen, renderBits_bitStringValue hbits hlen,
        fun j hj => getLsbD_bitStringValue hlen hj⟩⟩
  · intro w e v
    refine ⟨length_renderBits v, fun j hj => getD_renderBits v hj, ?_⟩
    rw [parseBits_of_bits e (fun c => mem_renderBits) (length_renderBits v), bitStringValue_renderBits]

/-- Settles O58: ENC (DEC) accepts every operand and leaves the ciphertext (plaintext) in DOUT. -/
theorem hostCipherOperationsReturnTheResult : Obligations.HostCipherOperationsReturnTheResult := by
  unfold Obligations.HostCipherOperationsReturnTheResult
  intro s text key p k hb hturns htext hkey
  let after (d : Byte) : State := (s.withSubkeys (deriveSubkeys s.cfg.tables k)).withDout (d.setWidth 10)
  have henc (h : HostState) : exec (.enc k p) { s with host := h } =
      .next { s with host := h, block := (after (encrypt s.cfg.tables p k)).block } := exec_enc k p hb
  have hdec (h : HostState) : exec (.dec k p) { s with host := h } =
      .next { s with host := h, block := (after (decrypt s.cfg.tables p k)).block } := exec_dec k p hb
  exact ⟨⟨_, by rw [hostEncrypt, htext, hkey], cipherLines_run rfl hturns hb henc hb rfl⟩,
    ⟨_, by rw [hostDecrypt, htext, hkey], cipherLines_run rfl hturns hb hdec hb rfl⟩⟩

/-- Settles O59: the cutting starts with an empty chunk, so that only the pairs are given out. -/
theorem chunksHoldEveryPairInOrder : Obligations.ChunksHoldEveryPairInOrder := by
  unfold Obligations.ChunksHoldEveryPairInOrder
  intro n pairs hn
  exact ⟨flatten_chunksFrom n [] pairs, fun chunk => mem_chunksFrom hn (Nat.zero_le n)⟩

end Sys2Proof.Machine
end

section
/-! Commands that are dropped or fail, the interrupt output, and the race of a write to CMD with the join (rules R104
to R106 and R111). -/

namespace Sys2Proof.Machine

/-! ### Dropped commands (rule R106) -/

theorem exec_drops (i : Instr) {s : State} (hb : s.block.busy = true) :
    exec i s = .next { s with block := dropCommand s.block } := by
  obtain ⟨f, hf⟩ := exec_eq_offer i s
  rw [hf, offer_busy f hb]

/-- Settles O9: both writes are offered to a busy block, which drops them. -/
theorem commandWhileBusyIsDropped : Obligations.CommandWhileBusyIsDropped := by
  unfold Obligations.CommandWhileBusyIsDropped
  exact ⟨fun w _ hb => writeCmd_drops w hb, fun i _ hb => exec_drops i hb⟩

/-! ### Failed commands (rules R68 and R104) -/

/-- Check 2 of rule R68 fails on an operand that is too wide, with the check's own error. -/
theorem wide_of_widthError_eq_some {n : Nat} {val : BitVec 10} {e e' : ErrorKind}
    (h : (if val >>> n = 0 then none else some e) = some e') : 2 ^ n ≤ val.toNat ∧ e = e' := by
  obtain ⟨hwide, he⟩ := Option.ite_none_left_eq_some.mp h
  exact ⟨not_lt.mp ((shiftRight_eq_zero_iff val n).not.mp hwide), Option.some.inj he⟩

/-- A decoded command that fails check 2 or check 3 leaves that check's error alone. -/
theorem exec_fails {i : Instr} {s : State} {e : ErrorKind} (hb : s.block.busy = false)
    (h : commandError i s = some e) : exec i s = .next { s with block := raiseCmdError e s.block } := by
  cases i with
  | nop | enc | dec | ksched | round | pclr => cases h
  | permP10 | permP8 | permIp | permIpInv | permEp | permP4 | sboxA | sboxB | rotl5 =>
    obtain ⟨hwide, rfl⟩ := wide_of_widthError_eq_some h
    exact offerCompleting_wide (fun b v => writeDout _ b) hb hwide
  | padd p c =>
    obtain ⟨hfull, ⟨⟩⟩ := Option.ite_none_right_eq_some.mp h
    exact exec_padd_full p c hb (beq_iff_eq.mpr hfull)
  | search workers =>
    obtain ⟨hempty, ⟨⟩⟩ := Option.ite_none_right_eq_some.mp h
    exact exec_search_empty workers hb hempty

theorem writeCmd_fails {w : Word} {s : State} {e : ErrorKind} (hb : s.block.busy = false)
    (h : wordError w s = some e) : writeCmd w s = .next { s with block := raiseCmdError e s.block } := by
  rw [wordError] at h
  rw [writeCmd]
  cases hdecode : decode w with
  | ok i => exact exec_fails hb (by simpa only [hdecode] using h)
  | error _ =>
    obtain rfl : ErrorKind.illegalCommand = e := by simpa only [hdecode, Option.some.injEq] using h
    exact offerCompleting_error hb rfl

/-- Settles O10: each of the three checks that fails raises its own error, on the block as it stood. -/
theorem failedCommandWritesOnlyItsError : Obligations.FailedCommandWritesOnlyItsError := by
  unfold Obligations.FailedCommandWritesOnlyItsError
  exact fun _ _ _ hb h => writeCmd_fails hb h

/-! ### DONE and `irq` after an accepted command (rules R67, R69, R111) -/

/-- A command accepted by an idle block is complete unless it has started a search. -/
theorem AcceptedAs.done_eq {p : Params} {b b' : Block} (hb : b.busy = false) (ha : AcceptedAs p b b') :
    b'.done = !b'.busy := by
  cases ha with
  | started => rfl
  | results | cleared | appended | failed => exact congrArg not hb.symm

/-- While the invariant holds, a running search has DONE = 0, which keeps `irq` low. -/
theorem irq_busy {s : State} (hinv : s.Inv) (hb : s.block.busy = true) : irq s.block = false := by
  rw [irq, hinv.block.busy_not_done hb, Bool.and_false]

/-- Settles O42: with IE = 1 `irq` is DONE, which an accepted command leaves at the negation of BUSY. -/
theorem irqRisesAtCompletion : Obligations.IrqRisesAtCompletion := by
  unfold Obligations.IrqRisesAtCompletion
  refine ⟨fun w s t hb hie hwrite => ?_, fun s => irq_busy, fun s hie => ?_, fun s hie => ?_⟩
  · obtain ⟨b, hb', ha⟩ := writeCmd_acceptedAs w s hb
    obtain rfl : { s with block := b } = t := Host.Outcome.next.inj (hb'.symm.trans hwrite)
    obtain ⟨-, -, hkept, -⟩ := ha.keeps
    rw [irq, hkept, hie, Bool.true_and, ha.done_eq hb]
  · rw [irq, joinMove_block, joinStep_ie, hie, joinStep_done, Bool.and_true]
  · rw [irq, hie, Bool.false_and]

/-! ### What an accepted command keeps of the search results (rules R88 to R90) -/

theorem AcceptedAs.matchCnt_eq {p : Params} {b b' : Block} (ha : AcceptedAs p b b') : b'.matchCnt = b.matchCnt := by
  cases ha <;> rfl

/-- Only a search that starts clears MATCH. -/
theorem AcceptedAs.matchMap_eq {p : Params} {b b' : Block} (ha : AcceptedAs p b b') (hidle : b'.busy = false) :
    b'.matchMap = b.matchMap := by
  cases ha with
  | started => cases hidle
  | results | cleared | appended | failed => rfl

/-- Two outcomes that differ from `s` in the block alone are the same only if their blocks are. -/
theorem block_eq_of_next_eq {s : State} {b b' : Block}
    (h : (.next { s with block := b } : Host.Outcome State Fault Refusal) = .next { s with block := b' }) : b = b' :=
  congrArg State.block (Host.Outcome.next.inj h)

/-- Every word but a SEARCH, accepted by an idle block, leaves it idle: it completes or fails. -/
theorem writeCmd_stays_idle {w : Word} {s : State} {b : Block} (hb : s.block.busy = false)
    (hw : ∀ n, decode w ≠ .ok (.search n)) (h : writeCmd w s = .next { s with block := b }) : b.busy = false := by
  cases herror : wordError w s with
  | some e =>
    obtain rfl := block_eq_of_next_eq ((writeCmd_fails hb herror).symm.trans h)
    exact hb
  | none =>
    rw [wordError] at herror
    rw [writeCmd] at h
    cases hdecode : decode w with
    | error _ => simp [hdecode] at herror
    | ok i =>
      simp only [hdecode] at herror h
      obtain ⟨b', hexec, -, -, -, hbusy, -⟩ :=
        exec_completesKeepingErrors hb herror fun n hi => hw n (hi ▸ hdecode)
      obtain rfl := block_eq_of_next_eq (hexec.symm.trans h)
      exact hbusy.trans hb

/-! ### A write to CMD and the join, in either order (rule R105) -/

/-- The turns and the host play no part in what a command does. -/
theorem exec_host_turns (i : Instr) (s : State) (h : HostState) (ts : List Turn) :
    exec i { s with host := h, turns := ts } =
      mapNext (fun t => { t with host := h, turns := ts }) (exec i s) := by
  cases i <;> rfl

theorem writeCmd_host_turns (w : Word) (s : State) (h : HostState) (ts : List Turn) :
    writeCmd w { s with host := h, turns := ts } =
      mapNext (fun t => { t with host := h, turns := ts }) (writeCmd w s) := by
  rw [writeCmd, writeCmd]
  cases decode w with
  | ok i => exact exec_host_turns i s h ts
  | error _ => rfl

/-- Each of the three lines that write `w` to CMD makes that access. -/
theorem runLine_writesCommand {w : Word} {l : HostLine} {s : State} (hl : writesCommand s.cfg w l) :
    runLine l s = mapNext (record (writeAccess s.cfg .cmd w) .written) (writeCmd w s) := by
  obtain rfl | rfl | ⟨i, hi, rfl, rfl⟩ := hl
  · exact performAccess_write .cmd w s
  · exact performAccess_write .cmd w s
  · rw [runLine_cmd hi, writeCmd_encode hi]

/-- The host's turn with such a line next makes of the block what the word makes of it. -/
theorem step_writesCommand {s : State} {w : Word} {l : HostLine} {ts : List Turn} {ls : List HostLine} {b : Block}
    (hl : writesCommand s.cfg w l) (hturns : s.turns = .host :: ts) (hprog : s.host.prog = l :: ls)
    (hwrite : writeCmd w s = .next { s with block := b }) :
    step s = .next { s with
      block := b
      turns := ts
      host := ⟨ls, (writeAccess s.cfg .cmd w, .written) :: s.host.trace⟩ } := by
  let taken : State := { s with turns := ts, host := { s.host with prog := ls } }
  rw [step_host hturns hprog, runLine_writesCommand (s := taken) hl, writeCmd_host_turns, hwrite]
  rfl

/-- ENC writes the ciphertext to DOUT, whatever else it leaves (rule R85). -/
theorem dout_of_writeCmd_enc {w : Word} {key : Key} {data : Byte} {s : State} {b : Block} (hb : s.block.busy = false)
    (hw : decode w = .ok (.enc key data)) (h : writeCmd w s = .next { s with block := b }) :
    b.dout = (encrypt s.cfg.tables data key).setWidth 10 := by
  rw [writeCmd, hw] at h
  obtain rfl := block_eq_of_next_eq ((exec_enc key data hb).symm.trans h)
  rfl

/-- Settles O55: a write that comes first meets a busy block, which drops it; one that comes after the join meets an
idle block, which accepts it. -/
theorem joinAndCommandInEitherOrder : Obligations.JoinAndCommandInEitherOrder := by
  unfold Obligations.JoinAndCommandInEitherOrder
  intro s w l ts ls hb hp hl hprog count
  have hcount (e : Word) (b : Block) (hmap : b.matchMap = s.block.matchMap) :
      (joinStep e b).matchCnt.toNat = count := by
    rw [toNat_joinStep_matchCnt, hmap]
    rfl
  constructor
  · have hdrop := step_writesCommand (s := { s with turns := .host :: .join :: ts }) hl rfl hprog (writeCmd_drops w hb)
    exact ⟨_, (run_succ hdrop).trans (run_succ (step_join_enabled rfl ((joinEnabled_iff _).mpr ⟨hb, hp⟩))), rfl,
      hcount _ _ rfl⟩
  · let joined := joinMove { s with turns := .host :: ts }
    have hjoin : step { s with turns := .join :: .host :: ts } = .next joined :=
      step_join_enabled rfl ((joinEnabled_iff _).mpr ⟨hb, hp⟩)
    have hidle : joined.block.busy = false := rfl
    obtain ⟨b, hwrite, ha⟩ := writeCmd_acceptedAs w joined hidle
    have hstep := step_writesCommand (s := joined) hl rfl hprog hwrite
    obtain ⟨-, hovr, -⟩ := ha.keeps
    refine ⟨joined, _, hjoin, rfl, (run_succ hjoin).trans (run_succ hstep), hwrite, hovr, ?_, fun hsearch => ?_,
      fun key data henc => dout_of_writeCmd_enc (s := joined) hidle henc hwrite⟩
    · exact (congrArg BitVec.toNat ha.matchCnt_eq).trans (hcount _ _ rfl)
    · have hstays := writeCmd_stays_idle hidle hsearch hwrite
      exact ⟨hstays, ha.matchMap_eq hstays⟩

end Sys2Proof.Machine
end

section
/-! Reads, reset and rest against a running search: what the registers show while BUSY = 1, how reset ends a search,
and when the machine is at rest (rules R119, R121 and R125). -/

namespace Sys2Proof.Machine

/-! ### Reads while a search runs -/

/-- Rule R121: while a search runs, a read of a search result is the next draw. -/
theorem readReg_searchResult_busy {r : Reg} {s : State} (hb : s.block.busy = true) (hr : r.isSearchResult = true) :
    readReg r s = drawWord s := by
  cases r with
  | matchcnt | elapsed | rkey | matchmap _ => exact if_pos hb
  | _ => cases hr

/-- A read of any other register takes no draw, whether a search runs or not. -/
theorem readReg_snd_of_not_searchResult {r : Reg} (s : State) (hr : r.isSearchResult = false) :
    (readReg r s).2 = s := by
  cases r with
  | matchcnt | elapsed | rkey | matchmap _ => cases hr
  | _ => rfl

/-- The registers that look at BUSY are the search results and STATUS (rules R20 and R121). -/
theorem readReg_fst_with_busy {r : Reg} (s : State) (busy : Bool) (hr : r.isSearchResult = false)
    (hstatus : r ≠ .status) :
    (readReg r { s with block := { s.block with busy := busy } }).1 = (readReg r s).1 := by
  cases r with
  | matchcnt | elapsed | rkey | matchmap _ => cases hr
  | status => exact absurd rfl hstatus
  | _ => rfl

/-- BUSY is bit 0 of STATUS, which without it reads 0 (rule R20). -/
theorem statusWord_of_busy {b : Block} (hb : b.busy = true) :
    statusWord b = statusWord { b with busy := false } ||| 1 := by
  have hset : place (BitVec.ofBool true) 0 = 1 := by decide
  have hclear : place (BitVec.ofBool false) 0 = 0 := by decide
  rw [statusWord, statusWord, hb, hset, hclear, BitVec.or_assoc _ 0 1]
  rfl

/-! ### Rest -/

theorem runEnded_iff (s : State) : s.runEnded = true ↔ s.host.prog = [] ∧ s.block.busy = false := by
  simp [State.runEnded]

/-- A host with no line left makes no access. -/
theorem hostTurn_of_prog_nil {s : State} (h : s.host.prog = []) : hostTurn s = .next s := by
  rw [hostTurn, h]

/-- With keys pending a key check changes the block: SEARCH_PENDING gets shorter. -/
theorem laneStep_ne_self (t : Tables) (c : Nat) {b : Block} (hp : b.pending ≠ []) : laneStep t c b ≠ b := by
  intro h
  have hlen := laneStep_pending_length t c b
  have hpos := List.length_pos_of_ne_nil hp
  rw [h] at hlen
  omega

/-- The join changes the block of a running search: BUSY becomes 0. -/
theorem joinStep_ne_self (e : Word) {b : Block} (hb : b.busy = true) : joinStep e b ≠ b := by
  intro h
  have hbusy := joinStep_busy b e
  rw [h, hb] at hbusy
  cases hbusy

/-! ### The obligations about reset and the hazards -/

/-- Settles O41: the search results are draws, STATUS shows BUSY, and no other register looks at BUSY. -/
theorem resultReadsWhileBusyAreDraws : Obligations.ResultReadsWhileBusyAreDraws := by
  unfold Obligations.ResultReadsWhileBusyAreDraws
  intro r s hb
  refine ⟨readReg_searchResult_busy hb, fun hr => ⟨readReg_snd_of_not_searchResult s hr, ?_⟩⟩
  by_cases hstatus : r = .status
  · subst hstatus
    exact statusWord_of_busy hb
  · rw [if_neg hstatus, readReg_fst_with_busy s false hr hstatus]
    exact BitVec.or_zero.symm

/-- Settles O44: a reset step writes the reset block, and without a reset next only the join takes BUSY to 0. -/
theorem resetEndsASearch : Obligations.ResetEndsASearch := by
  unfold Obligations.ResetEndsASearch
  refine ⟨fun s ts hts => ⟨_, step_reset hts, rfl, rfl, rfl, rfl, rfl, rfl, rfl⟩, fun s t hb hstep hend => ?_⟩
  by_cases hreset : s.turns.head? = some .reset
  · exact .inl hreset
  · obtain ⟨hp, e, hjoin⟩ := step_ends_search hb hreset hstep hend
    exact .inr ⟨hp, by rw [hjoin, joinStep_done]⟩

/-- Settles O60: with no turn given an idle machine leaves the step to the host, which has no line left, and a
running search takes the join or a key check. -/
theorem endedRunIsAtRest : Obligations.EndedRunIsAtRest := by
  unfold Obligations.EndedRunIsAtRest
  refine ⟨fun s hend hts => ?_, fun s hinv hb hts => ?_⟩
  · obtain ⟨hprog, hidle⟩ := (runEnded_iff s).mp hend
    rw [step_of_idle hts hidle, hostTurn_of_prog_nil hprog]
  · rw [step_of_busy hts hb]
    by_cases hp : s.block.pending = []
    · exact ⟨_, searchMove_join hb hp, joinStep_ne_self _ hb⟩
    · exact ⟨_, searchMove_lane hinv hb hp, laneStep_ne_self _ _ hp⟩

end Sys2Proof.Machine
end
